-- ==== Sys2Proof/Word.lean ====
section
/-! DEFINITION. The word types of the V850ES (spec/20_memory.md R82, spec/30_encoding.md R136). -/

namespace Sys2Proof

/-- A word: 32 bits (R82). -/
abbrev Word := BitVec 32

/-- A halfword: 16 bits (R82), also one halfword of an instruction (R120). -/
abbrev Half := BitVec 16

/-- A byte: 8 bits (R82). -/
abbrev Byte := BitVec 8

/-- A general register number, 0 to 31 (R136). -/
abbrev Reg := BitVec 5

end Sys2Proof
end

