-- ==== Sys2Proof/Syntax.lean ====
section
/-! DEFINITION. The instructions: one constructor per row of spec/opcode_table.json, in the table's order, with
the operands as the source writes them (spec/30_encoding.md R163). A displacement is held as the assembler writes
it (bit 0 included, R141), an immediate unextended (R140), so that `Instr.wf` says which values an encoding has. -/

namespace Sys2Proof

/-- The sixteen condition codes of spec/30_encoding.md R145, by the names of Table 5-5. -/
inductive Cond where
  | v | l | z | nh | s | t | lt | le | nv | nl | nz | h | ns | sa | ge | gt
deriving DecidableEq, Repr

/-- Why an encoding is no instruction (spec/30_encoding.md R161), one name per cell of the map. -/
inductive Undefined where
  /-- the halfwords given end inside the instruction -/
  | truncated
  /-- opcode 000010b with reg1 = r0 and reg2 not r31 (R152) -/
  | divhReg1Zero
  /-- MULH imm5 with reg2 = r0 (R155) -/
  | mulhImm5Reg2Zero
  /-- MULHI with reg2 = r0 (R155) -/
  | mulhiReg2Zero
  /-- PREPARE with bits 20..16 of no form (R157) -/
  | prepareForm
  /-- LD.HU with reg2 = r0 (R158) -/
  | ldhuReg2Zero
  /-- a blank or undefined cell of expansion 1 (R159) -/
  | blankCell
  /-- an RFU bit or another fixed bit of the row is not as the pattern has it (R134, R159) -/
  | fixedBits
  /-- SETF or SASF with bit 4 of the condition field 1 (R144) -/
  | condBit4
deriving DecidableEq, Repr

/-- The instruction set (spec/opcode_table.json; rules R201 to R362 and R160). -/
inductive Instr where
  -- load and store (spec/40_load_store.md)
  | ldB (disp16 : BitVec 16) (reg1 reg2 : Reg)
  | ldBu (disp16 : BitVec 16) (reg1 reg2 : Reg)
  | ldH (disp16 : BitVec 16) (reg1 reg2 : Reg)
  | ldHu (disp16 : BitVec 16) (reg1 reg2 : Reg)
  | ldW (disp16 : BitVec 16) (reg1 reg2 : Reg)
  | sldB (disp7 : BitVec 7) (reg2 : Reg)
  | sldBu (disp4 : BitVec 4) (reg2 : Reg)
  | sldH (disp8 : BitVec 8) (reg2 : Reg)
  | sldHu (disp5 : BitVec 5) (reg2 : Reg)
  | sldW (disp8 : BitVec 8) (reg2 : Reg)
  | sstB (reg2 : Reg) (disp7 : BitVec 7)
  | sstH (reg2 : Reg) (disp8 : BitVec 8)
  | sstW (reg2 : Reg) (disp8 : BitVec 8)
  | stB (reg2 : Reg) (disp16 : BitVec 16) (reg1 : Reg)
  | stH (reg2 : Reg) (disp16 : BitVec 16) (reg1 : Reg)
  | stW (reg2 : Reg) (disp16 : BitVec 16) (reg1 : Reg)
  -- multiply (spec/41_multiply.md)
  | mulReg (reg1 reg2 reg3 : Reg)
  | mulImm9 (imm9 : BitVec 9) (reg2 reg3 : Reg)
  | muluReg (reg1 reg2 reg3 : Reg)
  | muluImm9 (imm9 : BitVec 9) (reg2 reg3 : Reg)
  | mulhReg (reg1 reg2 : Reg)
  | mulhImm5 (imm5 : BitVec 5) (reg2 : Reg)
  | mulhi (imm16 : BitVec 16) (reg1 reg2 : Reg)
  -- arithmetic (spec/42_arithmetic.md)
  | addReg (reg1 reg2 : Reg)
  | addImm5 (imm5 : BitVec 5) (reg2 : Reg)
  | addi (imm16 : BitVec 16) (reg1 reg2 : Reg)
  | cmovReg (cccc : Cond) (reg1 reg2 reg3 : Reg)
  | cmovImm5 (cccc : Cond) (imm5 : BitVec 5) (reg2 reg3 : Reg)
  | cmpReg (reg1 reg2 : Reg)
  | cmpImm5 (imm5 : BitVec 5) (reg2 : Reg)
  | div (reg1 reg2 reg3 : Reg)
  | divhReg2 (reg1 reg2 : Reg)
  | divhReg3 (reg1 reg2 reg3 : Reg)
  | divhu (reg1 reg2 reg3 : Reg)
  | divu (reg1 reg2 reg3 : Reg)
  | movReg (reg1 reg2 : Reg)
  | movImm5 (imm5 : BitVec 5) (reg2 : Reg)
  | movImm32 (imm32 : BitVec 32) (reg1 : Reg)
  | movea (imm16 : BitVec 16) (reg1 reg2 : Reg)
  | movhi (imm16 : BitVec 16) (reg1 reg2 : Reg)
  | sasf (cccc : Cond) (reg2 : Reg)
  | setf (cccc : Cond) (reg2 : Reg)
  | sub (reg1 reg2 : Reg)
  | subr (reg1 reg2 : Reg)
  -- saturated (spec/43_saturated.md)
  | sataddReg (reg1 reg2 : Reg)
  | sataddImm5 (imm5 : BitVec 5) (reg2 : Reg)
  | satsub (reg1 reg2 : Reg)
  | satsubi (imm16 : BitVec 16) (reg1 reg2 : Reg)
  | satsubr (reg1 reg2 : Reg)
  -- logical (spec/44_logical.md)
  | andReg (reg1 reg2 : Reg)
  | andi (imm16 : BitVec 16) (reg1 reg2 : Reg)
  | bsh (reg2 reg3 : Reg)
  | bsw (reg2 reg3 : Reg)
  | hsw (reg2 reg3 : Reg)
  | notReg (reg1 reg2 : Reg)
  | orReg (reg1 reg2 : Reg)
  | ori (imm16 : BitVec 16) (reg1 reg2 : Reg)
  | sarReg (reg1 reg2 : Reg)
  | sarImm5 (imm5 : BitVec 5) (reg2 : Reg)
  | shlReg (reg1 reg2 : Reg)
  | shlImm5 (imm5 : BitVec 5) (reg2 : Reg)
  | shrReg (reg1 reg2 : Reg)
  | shrImm5 (imm5 : BitVec 5) (reg2 : Reg)
  | sxb (reg1 : Reg)
  | sxh (reg1 : Reg)
  | tst (reg1 reg2 : Reg)
  | xorReg (reg1 reg2 : Reg)
  | xori (imm16 : BitVec 16) (reg1 reg2 : Reg)
  | zxb (reg1 : Reg)
  | zxh (reg1 : Reg)
  -- branch (spec/45_branch.md)
  | bcond (cccc : Cond) (disp9 : BitVec 9)
  | jarl (disp22 : BitVec 22) (reg2 : Reg)
  | jmp (reg1 : Reg)
  | jr (disp22 : BitVec 22)
  -- bit manipulation (spec/46_bit_manipulation.md)
  | set1Disp (bit3 : BitVec 3) (disp16 : BitVec 16) (reg1 : Reg)
  | set1Reg (reg2 reg1 : Reg)
  | not1Disp (bit3 : BitVec 3) (disp16 : BitVec 16) (reg1 : Reg)
  | not1Reg (reg2 reg1 : Reg)
  | clr1Disp (bit3 : BitVec 3) (disp16 : BitVec 16) (reg1 : Reg)
  | clr1Reg (reg2 reg1 : Reg)
  | tst1Disp (bit3 : BitVec 3) (disp16 : BitVec 16) (reg1 : Reg)
  | tst1Reg (reg2 reg1 : Reg)
  -- special (spec/47_special.md); bit k of a register list stands for r(20+k)
  | callt (imm6 : BitVec 6)
  | ctret
  | di
  | dispose (imm5 : BitVec 5) (list12 : BitVec 12)
  | disposeJump (imm5 : BitVec 5) (list12 : BitVec 12) (reg1 : Reg)
  | ei
  | halt
  | ldsr (reg2 : Reg) (regID : BitVec 5)
  | nop
  | prepare (list12 : BitVec 12) (imm5 : BitVec 5)
  | prepareSp (list12 : BitVec 12) (imm5 : BitVec 5)
  | prepareImm16 (list12 : BitVec 12) (imm5 : BitVec 5) (imm16 : BitVec 16)
  | prepareImm16Hi (list12 : BitVec 12) (imm5 : BitVec 5) (imm16 : BitVec 16)
  | prepareImm32 (list12 : BitVec 12) (imm5 : BitVec 5) (imm32 : BitVec 32)
  | reti
  | stsr (regID : BitVec 5) (reg2 : Reg)
  | switch (reg1 : Reg)
  | trap (vector : BitVec 5)
  -- debug (spec/48_debug.md)
  | dbret
  | dbtrap
  -- the illegal-instruction pattern (spec/30_encoding.md R160): sub-opcode 1xxxb and 0111b, with its don't-care
  -- bits 31..27, 25..23 (first row only), 22..17, 15..11 and 4..0
  | illegalHigh (b31to27 : BitVec 5) (b25to23 : BitVec 3) (b22to17 : BitVec 6) (b15to11 b4to0 : BitVec 5)
  | illegalSeven (b31to27 : BitVec 5) (b22to17 : BitVec 6) (b15to11 b4to0 : BitVec 5)
deriving DecidableEq, Repr

end Sys2Proof
end

