-- ==== Sys2Proof/Machine/Flags.lean ====
section
/-! DEFINITION. The program status word and every flag computation of the spec (spec/10_state.md R46 to R49; the
flag functions of R240, R250, R270, R280, R283 to R285, R289), and the condition codes (spec/30_encoding.md R145). -/

namespace Sys2Proof.Machine

/-- The eight defined bits of the PSW (R46). -/
inductive Flag where
  | np | ep | id | sat | cy | ov | s | z
deriving DecidableEq, Repr

/-- The place of a flag in the PSW (R46). -/
def Flag.bit : Flag → Nat
  | .np => 7
  | .ep => 6
  | .id => 5
  | .sat => 4
  | .cy => 3
  | .ov => 2
  | .s => 1
  | .z => 0

/-- The flag's value in a PSW. -/
def flagOf (psw : Word) (f : Flag) : Bool := psw.getLsbD f.bit

/-- The PSW with one flag written. -/
def withFlag (f : Flag) (b : Bool) (psw : Word) : Word :=
  if b then psw ||| (1#32 <<< f.bit) else psw &&& ~~~(1#32 <<< f.bit)

/-- The flags an instruction writes; a flag it does not name is unchanged (R49). -/
structure FlagWrite where
  sat : Option Bool := none
  cy : Option Bool := none
  ov : Option Bool := none
  s : Option Bool := none
  z : Option Bool := none
deriving DecidableEq, Repr

/-- One flag written, or left. -/
def withFlagOpt (f : Flag) (b : Option Bool) (psw : Word) : Word :=
  match b with
  | some b => withFlag f b psw
  | none => psw

/-- The PSW after an instruction's flag writes. -/
def FlagWrite.apply (w : FlagWrite) (psw : Word) : Word :=
  withFlagOpt .z w.z (withFlagOpt .s w.s (withFlagOpt .ov w.ov (withFlagOpt .cy w.cy (withFlagOpt .sat w.sat psw))))

/-- `AddFlags` of spec/42_arithmetic.md R240. -/
def addFlags (a b : Word) : FlagWrite :=
  let r := a + b
  { cy := some (decide (2 ^ 32 ≤ a.toNat + b.toNat))
    ov := some (a.msb == b.msb && r.msb != a.msb)
    s := some r.msb
    z := some (r == 0#32) }

/-- `SubFlags` of spec/42_arithmetic.md R240. -/
def subFlags (a b : Word) : FlagWrite :=
  let r := a - b
  { cy := some (decide (a.toNat < b.toNat))
    ov := some (a.msb != b.msb && r.msb != a.msb)
    s := some r.msb
    z := some (r == 0#32) }

/-- `Sat` of spec/43_saturated.md R270: the stored value of an exact result, and whether it was out of range. -/
def saturate (e : Int) : Word × Bool :=
  if 2 ^ 31 - 1 < e then (0x7FFFFFFF#32, true)
  else if e < -2 ^ 31 then (0x80000000#32, true)
  else (BitVec.ofInt 32 e, false)

/-- The flags of a saturated instruction with carry or borrow `cy` and outcome `r` (R270, R271: SAT is set by an
overflow and otherwise left). -/
def saturatedFlags (cy : Bool) (r : Word × Bool) : FlagWrite :=
  { sat := if r.2 then some true else none
    cy := some cy
    ov := some r.2
    s := some r.1.msb
    z := some (r.1 == 0#32) }

/-- `LogicFlags` of spec/44_logical.md R280. -/
def logicFlags (r : Word) : FlagWrite :=
  { ov := some false, s := some r.msb, z := some (r == 0#32) }

/-- The flags of a shift that moved `cy` out last (R289). -/
def shiftFlags (cy : Bool) (r : Word) : FlagWrite :=
  { cy := some cy, ov := some false, s := some r.msb, z := some (r == 0#32) }

/-- The last bit a right shift by `n` moves out; 0 for no shift (R289, R290, R292). -/
def carryRight (a : Word) (n : Nat) : Bool := decide (0 < n) && a.getLsbD (n - 1)

/-- The last bit a left shift by `n` moves out; 0 for no shift (R289, R291). -/
def carryLeft (a : Word) (n : Nat) : Bool := decide (0 < n) && a.getLsbD (32 - n)

/-- Byte `k` of a word, bit 0 in byte 0 (spec/20_memory.md R81). -/
def byteOf (w : Word) (k : Nat) : Byte := w.extractLsb' (8 * k) 8

/-- The flags of BSH: CY and Z look at the low halfword only (R283). -/
def bshFlags (r : Word) : FlagWrite :=
  { cy := some (byteOf r 0 == 0#8 || byteOf r 1 == 0#8)
    ov := some false
    s := some r.msb
    z := some (r.extractLsb' 0 16 == 0#16) }

/-- The flags of BSW (R284). -/
def bswFlags (r : Word) : FlagWrite :=
  { cy := some (byteOf r 0 == 0#8 || byteOf r 1 == 0#8 || byteOf r 2 == 0#8 || byteOf r 3 == 0#8)
    ov := some false
    s := some r.msb
    z := some (r == 0#32) }

/-- The flags of HSW (R285). -/
def hswFlags (r : Word) : FlagWrite :=
  { cy := some (r.extractLsb' 0 16 == 0#16 || r.extractLsb' 16 16 == 0#16)
    ov := some false
    s := some r.msb
    z := some (r == 0#32) }

/-- The flags of a division with quotient `q` that does not overflow (R250). -/
def divFlags (q : Word) : FlagWrite :=
  { ov := some false, s := some q.msb, z := some (q == 0#32) }

/-- The flag of the bit manipulation instructions: Z is the inverse of the bit as it was (R321). -/
def bitFlags (old : Bool) : FlagWrite := { z := some (!old) }

/-- Does a condition hold of a PSW (spec/30_encoding.md R145). -/
def condHolds (c : Cond) (psw : Word) : Bool :=
  let sat := flagOf psw .sat
  let cy := flagOf psw .cy
  let ov := flagOf psw .ov
  let s := flagOf psw .s
  let z := flagOf psw .z
  match c with
  | .v => ov
  | .nv => !ov
  | .l => cy
  | .nl => !cy
  | .z => z
  | .nz => !z
  | .nh => cy || z
  | .h => !(cy || z)
  | .s => s
  | .ns => !s
  | .t => true
  | .sa => sat
  | .lt => s != ov
  | .ge => !(s != ov)
  | .le => (s != ov) || z
  | .gt => !((s != ov) || z)

end Sys2Proof.Machine
end

