-- ==== Sys2Proof/Config.lean ====
section
/-! DEFINITION. What the product fixes (spec/00_scope.md R9, spec/92_eei_decisions.md P1 to P6) and the free
values: constants without a body, so that nothing proved can depend on what they are. -/

namespace Sys2Proof.Machine

/-- What lies in an area of the address space (spec/20_memory.md R85, R86, R100; spec/92_eei_decisions.md D14). -/
inductive AreaKind where
  /-- plain memory: a read gives the latest byte written -/
  | ram
  /-- a read gives the byte held, a write has no effect -/
  | rom
  /-- a device, or memory that another bus master may write: what a read gives is the environment's -/
  | external
  /-- nothing there: what a read gives is the environment's, a write has no effect -/
  | absent
deriving DecidableEq, Repr

/-- One entry of MEMORY_MAP: the `size` addresses from `base` on (log 5). -/
structure Area where
  base : Nat
  size : Nat
  kind : AreaKind
deriving DecidableEq, Repr

/-- The product parameters that a result can depend on (R9). PRODUCT_TYPE changes clock counts only and has no
field; INT_CODE comes with each request. -/
structure Product where
  /-- MISALIGN_ENABLE (spec/20_memory.md R90) -/
  misalign : Bool
  /-- NMI_INPUTS: is there an NMI0 input (spec/60_exceptions.md R410) -/
  nmi0 : Bool
  /-- NMI_INPUTS: is there an NMI1 input -/
  nmi1 : Bool
  /-- NMI_INPUTS: is there an NMI2 input -/
  nmi2 : Bool
  /-- MEMORY_MAP: the areas that differ from plain memory; the first area that covers an address decides -/
  areas : List Area
  /-- MEMORY_MAP: does the 64 MB image repeat in the 4 GB data space (spec/92_eei_decisions.md P4) -/
  mirrored : Bool
deriving DecidableEq, Repr, Inhabited

end Sys2Proof.Machine

namespace Sys2Proof

/-- The parameters of the product at hand, which the spec leaves open (log 4). -/
opaque Config.product : Machine.Product

/-- Free words: the n-th is `undef(32)` (spec/00_scope.md R12; log 6). -/
opaque Config.freeWord : Nat → Word

/-- Free bits: the n-th is `undef(1)` (spec/00_scope.md R12; log 6). -/
opaque Config.freeBit : Nat → Bool

/-- Free bytes: what the environment answers to the n-th read (spec/20_memory.md R85; log 5, log 6). -/
opaque Config.freeByte : Nat → Byte

end Sys2Proof
end

