-- ==== Sys2Proof/Machine/State.lean ====
section
/-! DEFINITION. The state of the machine (spec/10_state.md, spec/60_exceptions.md R410), the reasons a step can
stop, and the state after reset (R62, spec/70_reset_and_hazards.md R500). -/

namespace Sys2Proof.Machine

/-- A fetch the spec gives no meaning to. -/
inductive Fault where
  /-- Raised by the fetch of a halfword from a range of the program area that may not be executed from
  (spec/20_memory.md R83, U12 of spec/93_implementation_defined.md). Safe: nothing is claimed past it. -/
  | prohibitedFetch (addr : Word)
  /-- Raised by the execution of a byte that the program stored and that the fetch unit may not have seen yet
  (spec/20_memory.md R106, U19). Safe: nothing is claimed past it. -/
  | unsynchronisedFetch (addr : Word)
deriving DecidableEq, Repr

/-- An action the spec gives no meaning to. -/
inductive Refusal where
  /-- Raised by an arm of `exec` whose instruction has no meaning yet. Safe: nothing is claimed of it. -/
  | notModelled (mnemonic : String)
  /-- Raised by the decoding of a word that is no instruction (spec/30_encoding.md R161, U1). Safe: nothing is
  claimed past it. -/
  | undefinedEncoding (why : Undefined)
  /-- Raised by MUL and MULU with a prohibited register combination (spec/41_multiply.md R232, R234, U5). Safe:
  nothing is claimed past it. -/
  | prohibitedRegisters
  /-- Raised by LDSR and STSR for a register number they may not name (spec/10_state.md R57, U3, U4). Safe:
  nothing is claimed past it. -/
  | reservedSystemRegister (regID : BitVec 5)
  /-- Raised by RETI from the NMI1 or NMI2 handler (spec/60_exceptions.md R427, U8; log 14). Safe: nothing is
  claimed past it. -/
  | nmiReturn
  /-- Raised by an interrupt request that meets the SLD conflict, before the instruction of list ii or after it (spec/70_reset_and_hazards.md R515, U9; log 13), unless
  a debug function trap is taken there (log 10).
  Unsafe where the conflict is wider than the pattern the spec reads from the damaged text. -/
  | sldInterruptConflict
deriving DecidableEq, Repr

/-- The requests that are asserted and not yet acknowledged (spec/60_exceptions.md R410, R412, R426, R438; log 9). -/
structure Requests where
  nmi0 : Bool := false
  nmi1 : Bool := false
  nmi2 : Bool := false
  debugTrap : Bool := false
  /-- the maskable request that the INTC presents, with its exception code -/
  int : Option Half := none
deriving DecidableEq, Repr

/-- What the INTC does to the maskable request it presents (spec/60_exceptions.md R410; log 27). -/
inductive IntcAction where
  | keep
  | withdraw
  | present (code : Half)
deriving DecidableEq, Repr

/-- What a reset in the middle of an instruction leaves of one byte that the instruction stores
(spec/70_reset_and_hazards.md R500, N43; log 11). -/
inductive ByteFate where
  /-- the byte is not stored yet -/
  | kept
  /-- the byte is stored -/
  | stored
  /-- the bus cycle itself is cut: any value -/
  | spoiled
deriving DecidableEq, Repr

/-- What the environment does at one boundary (spec/60_exceptions.md R410, R413; log 9, log 11, log 15). -/
structure Boundary where
  /-- the reset input is active (spec/70_reset_and_hazards.md R500) -/
  reset : Bool := false
  /-- a debug function trap is requested (spec/60_exceptions.md R438) -/
  debugTrap : Bool := false
  nmi0 : Bool := false
  nmi1 : Bool := false
  nmi2 : Bool := false
  intc : IntcAction := .keep
  /-- the core takes an acknowledgeable interrupt at a later boundary (D2) -/
  defer : Bool := false
  /-- how many accesses the instruction at the pc had made when an interrupt abandons it (spec/20_memory.md R94,
  R95; log 15) -/
  progress : Nat := 0
  /-- a DISPOSE that an interrupt abandons after its load of r30 leaves ep loaded (R95) and not as it was
  (spec/47_special.md R341, spec/60_exceptions.md R413; log 15) -/
  epLoaded : Bool := false
  /-- what the reset input leaves of the stores of the instruction at the pc, byte by byte in their order, the bytes past
  the end kept; empty: the instruction had not begun (spec/70_reset_and_hazards.md R500; log 11) -/
  cut : List ByteFate := []
deriving DecidableEq, Repr

/-- The memory: the bytes that differ from what an unlisted address reads as, by rising address. -/
abbrev Memory := List Host.Cell

/-- The machine (INVENTORY.md, State). -/
structure State where
  /-- r0 to r31 (spec/10_state.md R30); the cell of r0 is never written (R31; log 26) -/
  regs : Vector Word 32
  /-- the program counter (R33) -/
  pc : Word
  /-- system register 0 (R41) -/
  eipc : Word
  /-- system register 1 (R42) -/
  eipsw : Word
  /-- system register 2 (R43) -/
  fepc : Word
  /-- system register 3 (R44) -/
  fepsw : Word
  /-- system register 4: FECC in bits 31..16, EICC in bits 15..0 (R45) -/
  ecr : Word
  /-- system register 5 (R46) -/
  psw : Word
  /-- system register 16 (R51) -/
  ctpc : Word
  /-- system register 17 (R52) -/
  ctpsw : Word
  /-- system register 18 (R53) -/
  dbpc : Word
  /-- system register 19 (R54) -/
  dbpsw : Word
  /-- system register 20 (R55) -/
  ctbp : Word
  /-- system register 21: DM in bit 0 (R56) -/
  dir : Word
  /-- HALT mode (R60) -/
  halted : Bool
  /-- the bytes of the address space (spec/20_memory.md R80) -/
  mem : Memory
  /-- the product's parameters, constant during a run (spec/00_scope.md R9; log 4) -/
  product : Product
  /-- the requests asserted now -/
  req : Requests
  /-- what the environment does at the coming boundaries; nothing after its end (log 9) -/
  script : List Boundary
  /-- how many free values the run has used (log 6) -/
  draws : Nat
  /-- the cells stored to that the fetch unit may not have seen (spec/20_memory.md R106; log 12) -/
  unsynced : List Nat
  /-- the registers named by the instruction just executed, if it is one of list ii of
  spec/70_reset_and_hazards.md R515 (log 13) -/
  window : List Reg
deriving DecidableEq, Repr

/-- Right after reset (spec/10_state.md R62, spec/70_reset_and_hazards.md R500): pc 0, PSW 20h, ECR 0, DIR 0, r0 0;
every other register is 0 by log 1 and log 2, memory lists nothing (log 3), nothing is requested (log 9). -/
def State.reset : State :=
  { regs := Vector.replicate 32 0x00000000#32, pc := 0x00000000#32
    eipc := 0x00000000#32, eipsw := 0x00000000#32, fepc := 0x00000000#32, fepsw := 0x00000000#32
    ecr := 0x00000000#32, psw := 0x00000020#32
    ctpc := 0x00000000#32, ctpsw := 0x00000000#32, dbpc := 0x00000000#32, dbpsw := 0x00000000#32
    ctbp := 0x00000000#32, dir := 0x00000000#32
    halted := false, mem := [], product := Config.product
    req := {}, script := [], draws := 0, unsynced := [], window := [] }

end Sys2Proof.Machine
end

