-- ==== Sys2Proof/Machine/Operands.lean ====
section
/-! DEFINITION. Operands: general registers, extended immediates, effective addresses, alignment, register lists,
system registers (spec/10_state.md R31, R40; spec/20_memory.md R90, R96 to R98; spec/30_encoding.md R140, R142). -/

namespace Sys2Proof.Machine

/-! ### General registers -/

/-- `x[r]`: r0 reads 0 (spec/10_state.md R31). -/
def State.gpr (s : State) (r : Reg) : Word :=
  if r = 0#5 then 0#32 else s.regs[r.toNat]'(r.isLt)

/-- The register file after a write; a write to r0 has no effect (spec/10_state.md R31). -/
def writeReg (regs : Vector Word 32) (r : Reg) (v : Word) : Vector Word 32 :=
  if r = 0#5 then regs else regs.set r.toNat v r.isLt

/-- `x[r] <- v`. -/
def State.setReg (r : Reg) (v : Word) (s : State) : State := { s with regs := writeReg s.regs r v }

/-- The stack pointer r3 (spec/10_state.md R32). -/
def regSP : Reg := 3#5

/-- The element pointer r30 (spec/10_state.md R32). -/
def regEP : Reg := 30#5

/-! ### Extension (spec/00_scope.md R12, spec/30_encoding.md R140) -/

/-- `sext_32`. -/
def sext {n : Nat} (v : BitVec n) : Word := v.signExtend 32

/-- `zext_32`. -/
def zext {n : Nat} (v : BitVec n) : Word := v.setWidth 32

/-- The low halfword of a word. -/
def lowHalf (v : Word) : Half := v.extractLsb' 0 16

/-- The signed value of the low halfword, as a word. -/
def sextLow (v : Word) : Word := sext (lowHalf v)

/-! ### Addresses -/

/-- `disp16[reg1]` (spec/20_memory.md R97). -/
def State.baseAddr (s : State) (reg1 : Reg) (disp16 : BitVec 16) : Word := s.gpr reg1 + sext disp16

/-- `disp[ep]` (spec/20_memory.md R98). -/
def State.epAddr {n : Nat} (s : State) (disp : BitVec n) : Word := s.gpr regEP + zext disp

/-- `DataAddr(a, 2)` (spec/20_memory.md R90). -/
def Product.halfAddr (p : Product) (a : Word) : Word := if p.misalign then a else a &&& 0xFFFFFFFE#32

/-- `DataAddr(a, 4)` (spec/20_memory.md R90). -/
def Product.wordAddr (p : Product) (a : Word) : Word := if p.misalign then a else a &&& 0xFFFFFFFC#32

/-- The address a stack access puts on the bus, whatever MISALIGN_ENABLE is (spec/20_memory.md R91). -/
def stackAddr (a : Word) : Word := a &&& 0xFFFFFFFC#32

/-! ### Register lists (spec/30_encoding.md R142) -/

/-- The registers of a list, ascending: bit k of the list stands for r(20+k) (spec/47_special.md R341). -/
def listRegs (list12 : BitVec 12) : List Reg :=
  ((List.range 12).filter fun k => list12.getLsbD k).map fun k => BitVec.ofNat 5 (20 + k)

/-- The bytes of frame that imm5 stands for (spec/47_special.md R340; 90_conflicts.md C3). -/
def frameSize (imm5 : BitVec 5) : Word := zext imm5 <<< 2

/-! ### System registers (spec/10_state.md R40 to R57) -/

/-- The writable bits of a saved PC: 25..0 (R41, R58). -/
def savedPCBits (v : Word) : Word := v &&& 0x03FFFFFF#32

/-- The writable bits of the PSW and of a saved PSW: 7..0 (R42, R46). -/
def pswBits (v : Word) : Word := v &&& 0x000000FF#32

/-- The writable bits of CTBP: 25..1 (R55). -/
def ctbpBits (v : Word) : Word := v &&& 0x03FFFFFE#32

/-- The value STSR reads; none for a register that may not be read (R40, R57). -/
def State.sysReg (s : State) (regID : BitVec 5) : Option Word :=
  match regID.toNat with
  | 0 => some s.eipc
  | 1 => some s.eipsw
  | 2 => some s.fepc
  | 3 => some s.fepsw
  | 4 => some s.ecr
  | 5 => some s.psw
  | 16 => some s.ctpc
  | 17 => some s.ctpsw
  | 18 => some s.dbpc
  | 19 => some s.dbpsw
  | 20 => some s.ctbp
  | 21 => some s.dir
  | _ => none

/-- The state after LDSR writes `v`; none for a register that may not be written (R40, R57;
spec/47_special.md R335). -/
def State.setSysReg (s : State) (regID : BitVec 5) (v : Word) : Option State :=
  match regID.toNat with
  | 0 => some { s with eipc := savedPCBits v }
  | 1 => some { s with eipsw := pswBits v }
  | 2 => some { s with fepc := savedPCBits v }
  | 3 => some { s with fepsw := pswBits v }
  | 5 => some { s with psw := pswBits v }
  | 16 => some { s with ctpc := savedPCBits v }
  | 17 => some { s with ctpsw := pswBits v }
  | 18 => some { s with dbpc := savedPCBits v }
  | 19 => some { s with dbpsw := pswBits v }
  | 20 => some { s with ctbp := ctbpBits v }
  | _ => none

end Sys2Proof.Machine
end

