-- ==== Sys2Proof/Machine/Ops.lean ====
section
/-! DEFINITION. The operations the instructions share: memory (spec/20_memory.md R81 to R91), the program counter
(spec/10_state.md R34, R35), flag writes, taking an exception and returning from one (spec/60_exceptions.md R420 to
R441), the stack accesses of PREPARE and DISPOSE, and the two outcomes of a division. -/

namespace Sys2Proof.Machine

/-- The outcome of an instruction. -/
abbrev Result := Host.Outcome State Fault Refusal

/-! ### Memory -/

/-- What a byte that nothing has written reads as (log 3). -/
def Memory.unlisted : Byte := 0x00#8

/-- The byte at a cell. -/
def Memory.read : Memory → Nat → Byte
  | [], _ => Memory.unlisted
  | (a, b) :: rest, n => if a = n then b else Memory.read rest n

/-- The memory after a byte is written; the canonical form is kept. -/
def Memory.write : Memory → Nat → Byte → Memory
  | [], n, v => if v = Memory.unlisted then [] else [(n, v)]
  | (a, b) :: rest, n, v =>
    if n < a then (if v = Memory.unlisted then (a, b) :: rest else (n, v) :: (a, b) :: rest)
    else if n = a then (if v = Memory.unlisted then rest else (n, v) :: rest)
    else (a, b) :: Memory.write rest n v

/-- The canonical form of a memory all of whose cells are `lo` or more. -/
def Memory.wfFrom (lo : Nat) : Memory → Bool
  | [] => true
  | (a, b) :: rest =>
    decide (lo ≤ a) && decide (a < 2 ^ 32) && decide (b ≠ Memory.unlisted) && Memory.wfFrom (a + 1) rest

/-- The canonical form: addresses strictly rising and below 2^32, no byte an unlisted address reads as. -/
def Memory.wf (m : Memory) : Bool := Memory.wfFrom 0 m

/-- What lies at a cell; plain memory where no area covers it (log 5). -/
def kindIn : List Area → Nat → AreaKind
  | [], _ => .ram
  | a :: rest, c => if a.base ≤ c ∧ c < a.base + a.size then a.kind else kindIn rest c

/-- The kind of a cell in this product's MEMORY_MAP. -/
def Product.kindAt (p : Product) (c : Nat) : AreaKind := kindIn p.areas c

/-- Is a read of the cell the value last written there (spec/20_memory.md R85, D14). -/
def AreaKind.isPlain : AreaKind → Bool
  | .ram | .rom => true
  | .external | .absent => false

/-- The cell of a data address: the address itself, or its place in the 64 MB image (P4; log 5). -/
def Product.cell (p : Product) (a : Word) : Nat := if p.mirrored then a.toNat % 2 ^ 26 else a.toNat

/-- The byte held at a data address. -/
def State.byteAt (s : State) (a : Word) : Byte := s.mem.read (s.product.cell a)

/-- What the `k`-th byte of an access reads at a cell: the byte held, or a free value (R85; log 5, log 6). -/
def State.cellRead (s : State) (k : Nat) (c : Nat) : Byte :=
  if (s.product.kindAt c).isPlain then s.mem.read c else Config.freeByte (s.draws + k)

/-- What the `k`-th byte of a data access reads. -/
def State.byteRead (s : State) (k : Nat) (a : Word) : Byte := s.cellRead k (s.product.cell a)

/-- `MemRead(a, 1)` (R85). -/
def State.loadByte (s : State) (a : Word) : Byte := s.byteRead 0 a

/-- The halfword whose low byte is at `a` (R81, R85). -/
def State.loadHalf (s : State) (a : Word) : Half := s.byteRead 1 (a + 1#32) ++ s.byteRead 0 a

/-- The word whose lowest byte is at `a` (R81, R85). -/
def State.loadWord (s : State) (a : Word) : Word :=
  s.byteRead 3 (a + 3#32) ++ s.byteRead 2 (a + 2#32) ++ s.byteRead 1 (a + 1#32) ++ s.byteRead 0 a

/-- Are the `n` cells from `c` on all plain. -/
def Product.plain (p : Product) (c : Nat) : Nat → Bool
  | 0 => true
  | n + 1 => (p.kindAt c).isPlain && p.plain (c + 1) n

/-- Are the `n` bytes at the data addresses from `a` on all plain. -/
def Product.plainData (p : Product) (a : Word) : Nat → Bool
  | 0 => true
  | n + 1 => (p.kindAt (p.cell a)).isPlain && p.plainData (a + 1#32) n

/-- After an access has read `n` bytes at `a`: the free values it may have used are used (log 6). -/
def State.afterRead (n : Nat) (a : Word) (s : State) : State :=
  { s with draws := if s.product.plainData a n then s.draws else s.draws + n }

/-- The memory after a byte is written to a cell: only plain RAM holds it (R86, D14; log 5). -/
def Product.writeCell (p : Product) (c : Nat) (v : Byte) (m : Memory) : Memory :=
  if p.kindAt c = .ram then m.write c v else m

/-- One byte stored (R86); the fetch unit may not see it yet (R106; log 12). -/
def State.writeByte (a : Word) (v : Byte) (s : State) : State :=
  { s with mem := s.product.writeCell (s.product.cell a) v s.mem, unsynced := s.product.cell a :: s.unsynced }

/-- A byte store (R86). -/
def State.storeByte (a : Word) (v : Byte) (s : State) : State := s.writeByte a v

/-- A halfword store, the low byte at `a` (R81, R86). -/
def State.storeHalf (a : Word) (v : Half) (s : State) : State :=
  (s.writeByte a (v.extractLsb' 0 8)).writeByte (a + 1#32) (v.extractLsb' 8 8)

/-- A word store, the lowest byte at `a` (R81, R86). -/
def State.storeWord (a : Word) (v : Word) (s : State) : State :=
  (((s.writeByte a (byteOf v 0)).writeByte (a + 1#32) (byteOf v 1)).writeByte (a + 2#32) (byteOf v 2)).writeByte
    (a + 3#32) (byteOf v 3)

/-! ### The program counter and the flags -/

/-- The value a write to the PC stores (spec/10_state.md R35). -/
def pcMask (v : Word) : Word := v &&& 0x03FFFFFE#32

/-- `NextPC(L)`. -/
def State.nextPC (s : State) (len : Word) : Word := pcMask (s.pc + len)

/-- On to the next instruction (spec/10_state.md R34). -/
def State.advance (len : Word) (s : State) : State := { s with pc := s.nextPC len }

/-- A control transfer: the fetch unit sees what was stored to plain memory before it (spec/20_memory.md R106;
log 12). -/
def State.jump (target : Word) (s : State) : State :=
  { s with pc := pcMask target, unsynced := s.unsynced.filter fun c => s.product.kindAt c != .ram }

/-- The flags an instruction writes (spec/10_state.md R49). -/
def State.setFlags (w : FlagWrite) (s : State) : State := { s with psw := w.apply s.psw }

/-- `cond(cccc)` (spec/30_encoding.md R145). -/
def State.cond (s : State) (c : Cond) : Bool := condHolds c s.psw

/-! ### Taking an exception and returning from one -/

/-- The register pair an event saves into (spec/60_exceptions.md R442). -/
inductive SavingPair where
  | ei | fe | db
deriving DecidableEq, Repr

/-- What an event writes to ECR (spec/10_state.md R45, spec/60_exceptions.md R436). -/
inductive CauseCode where
  | none
  | eicc (code : Half)
  | fecc (code : Half)
deriving DecidableEq, Repr

/-- What tells one event's entry from another's (spec/60_exceptions.md R401). -/
structure Entry where
  pair : SavingPair
  restorePC : Word
  cause : CauseCode
  /-- does the entry set PSW.NP -/
  setsNP : Bool
  /-- what the entry makes of PSW.EP -/
  ep : Bool
  handler : Word
deriving DecidableEq, Repr

/-- ECR after an event (spec/10_state.md R45). -/
def writeCause (cause : CauseCode) (ecr : Word) : Word :=
  match cause with
  | .none => ecr
  | .eicc code => ecr.extractLsb' 16 16 ++ code
  | .fecc code => code ++ ecr.extractLsb' 0 16

/-- The PSW in a handler: ID set, EP as the event says, NP set where the event says so (R420, R425, R430, R435). -/
def enterPSW (setsNP ep : Bool) (psw : Word) : Word :=
  withFlag .ep ep (withFlag .id true (if setsNP then withFlag .np true psw else psw))

/-- The DM flag of DIR (spec/10_state.md R56). -/
def withDM (b : Bool) (dir : Word) : Word := if b then dir ||| 1#32 else dir &&& ~~~1#32

/-- Taking an exception (spec/60_exceptions.md R420, R425, R430, R435, R437): the restore PC and the PSW are saved in
the event's pair (R442), the code goes to ECR, the PSW becomes the handler's, DM is set with the debug pair, the pc
goes to the handler. -/
def State.takeException (e : Entry) (s : State) : State :=
  ({ s with
    eipc := if e.pair = .ei then e.restorePC else s.eipc
    eipsw := if e.pair = .ei then s.psw else s.eipsw
    fepc := if e.pair = .fe then e.restorePC else s.fepc
    fepsw := if e.pair = .fe then s.psw else s.fepsw
    dbpc := if e.pair = .db then e.restorePC else s.dbpc
    dbpsw := if e.pair = .db then s.psw else s.dbpsw
    dir := if e.pair = .db then withDM true s.dir else s.dir
    psw := enterPSW e.setsNP e.ep s.psw
    ecr := writeCause e.cause s.ecr } : State).jump e.handler

/-- Returning to a saved pc and PSW (spec/60_exceptions.md R440, R441; spec/47_special.md R331, R333). -/
def State.returnTo (pc psw : Word) (s : State) : State := ({ s with psw := pswBits psw } : State).jump pc

/-! ### The stack accesses of PREPARE and DISPOSE (spec/47_special.md R340 to R346) -/

/-- Push the registers of a list in order, from the running address `a` down. -/
def State.pushList : List Reg → Word → State → State
  | [], _, s => s
  | r :: rest, a, s => State.pushList rest (a - 4#32) (s.storeWord (stackAddr (a - 4#32)) (s.gpr r))

/-- Pop into the registers of a list in order, from the running address `a` up. -/
def State.popList : List Reg → Word → State → State
  | [], _, s => s
  | r :: rest, a, s =>
    State.popList rest (a + 4#32) (((s.afterRead 4 (stackAddr a))).setReg r (s.loadWord (stackAddr a)))

/-- The bytes that the registers of a list take on the stack. -/
def listSize (list12 : BitVec 12) : Word := BitVec.ofNat 32 (4 * (listRegs list12).length)

/-- sp after PREPARE (R340). -/
def State.preparedSP (s : State) (list12 : BitVec 12) (imm5 : BitVec 5) : Word :=
  s.gpr regSP - listSize list12 - frameSize imm5

/-- What all forms of PREPARE do before ep and the pc (R340). -/
def State.prepareFrame (list12 : BitVec 12) (imm5 : BitVec 5) (s : State) : State :=
  (s.pushList (listRegs list12) (s.gpr regSP)).setReg regSP (s.preparedSP list12 imm5)

/-- What both forms of DISPOSE do before the pc (R346). -/
def State.disposeFrame (imm5 : BitVec 5) (list12 : BitVec 12) (s : State) : State :=
  (s.popList (listRegs list12).reverse (s.gpr regSP + frameSize imm5)).setReg regSP
    (s.gpr regSP + frameSize imm5 + listSize list12)

/-! ### Division (spec/42_arithmetic.md R250) -/

/-- What a division writes. -/
structure Division where
  quotient : Word
  remainder : Word
  flags : FlagWrite
  /-- how many free values it used (log 6, log 7) -/
  used : Nat
deriving DecidableEq, Repr

/-- Division by zero: quotient, remainder, S and Z are free values, OV is 1 (R250(d), U6; log 7). -/
def divideByZero (draws : Nat) : Division :=
  { quotient := Config.freeWord draws
    remainder := Config.freeWord (draws + 1)
    flags := { ov := some true, s := some (Config.freeBit draws), z := some (Config.freeBit (draws + 1)) }
    used := 2 }

/-- `a` divided by `b`, both signed: truncation toward zero (R250, R251; D20, D21). -/
def divideSigned (draws : Nat) (a b : Word) : Division :=
  if b = 0#32 then divideByZero draws
  else if a = 0x80000000#32 ∧ b = 0xFFFFFFFF#32 then
    { quotient := 0x80000000#32, remainder := 0#32
      flags := { ov := some true, s := some true, z := some false }, used := 0 }
  else
    let q := BitVec.ofInt 32 (a.toInt.tdiv b.toInt)
    { quotient := q, remainder := BitVec.ofInt 32 (a.toInt.tmod b.toInt), flags := divFlags q, used := 0 }

/-- `a` divided by `b`, both unsigned (R250, R254). -/
def divideUnsigned (draws : Nat) (a b : Word) : Division :=
  if b = 0#32 then divideByZero draws
  else
    let q := BitVec.ofNat 32 (a.toNat / b.toNat)
    { quotient := q, remainder := BitVec.ofNat 32 (a.toNat % b.toNat), flags := divFlags q, used := 0 }

/-- Flags and quotient of a division written: what DIVH reg1, reg2 does before the pc (R252). -/
def State.writeQuotient (reg2 : Reg) (d : Division) (s : State) : State :=
  ({ s with draws := s.draws + d.used } : State).setFlags d.flags |>.setReg reg2 d.quotient

/-- The quotient is written first, then the remainder (R250(a)). -/
def State.writeDivision (reg2 reg3 : Reg) (d : Division) (s : State) : State :=
  (s.writeQuotient reg2 d).setReg reg3 d.remainder

/-! ### Multiplication (spec/41_multiply.md R231) -/

/-- `smul` on 64 bits. -/
def signedProduct (a b : Word) : BitVec 64 := BitVec.ofInt 64 (a.toInt * b.toInt)

/-- `umul` on 64 bits. -/
def unsignedProduct (a b : Word) : BitVec 64 := BitVec.ofNat 64 (a.toNat * b.toNat)

/-- The low word to reg2, then the high word to reg3 (R232). -/
def State.writeProduct (reg2 reg3 : Reg) (p : BitVec 64) (s : State) : State :=
  (s.setReg reg2 (p.extractLsb' 0 32)).setReg reg3 (p.extractLsb' 32 32)

/-- The register combination that MUL and MULU may not use (R232, R234; log 19). -/
def prohibitedProduct (reg1 reg2 reg3 : Reg) : Bool :=
  decide (reg1 = reg3 ∧ reg1 ≠ reg2 ∧ reg1 ≠ 0#5 ∧ reg3 ≠ 0#5)

/-! ### Shared shapes of results -/

/-- A register and the flags written. -/
def State.writeResult (r : Reg) (v : Word) (w : FlagWrite) (s : State) : State := (s.setReg r v).setFlags w

/-- The byte with one bit replaced (spec/20_memory.md R87). -/
def withBit (t : Byte) (n : Nat) (b : Bool) : Byte := if b then t ||| (1#8 <<< n) else t &&& ~~~(1#8 <<< n)

/-- Read a byte, set Z to the inverse of bit `n`, write the byte back with the bit replaced
(spec/46_bit_manipulation.md R321). -/
def State.modifyBit (a : Word) (n : Nat) (new : Bool → Bool) (s : State) : State :=
  ((s.afterRead 1 a).setFlags (bitFlags ((s.loadByte a).getLsbD n))).storeByte a
    (withBit (s.loadByte a) n (new ((s.loadByte a).getLsbD n)))

/-- Read a byte and set Z to the inverse of bit `n` (spec/46_bit_manipulation.md R321, R325). -/
def State.testBit (a : Word) (n : Nat) (s : State) : State :=
  (s.afterRead 1 a).setFlags (bitFlags ((s.loadByte a).getLsbD n))

/-- The bit number that a register holds: its three low bits (spec/46_bit_manipulation.md R320). -/
def State.bitNumber (s : State) (reg2 : Reg) : Nat := (s.gpr reg2).toNat % 8

end Sys2Proof.Machine
end

