-- ==== Sys2Proof/Machine/Arith.lean ====
section
/-! DEFINITION. Arithmetic (spec/42_arithmetic.md). Nothing is raised. -/

namespace Sys2Proof.Machine

/-- ADD reg1, reg2 (R241). -/
def execAddReg (reg1 reg2 : Reg) (s : State) : Result :=
  let a := s.gpr reg2
  let b := s.gpr reg1
  .next ((s.writeResult reg2 (a + b) (addFlags a b)).advance 2#32)

/-- ADD imm5, reg2 (R241). -/
def execAddImm5 (imm5 : BitVec 5) (reg2 : Reg) (s : State) : Result :=
  let a := s.gpr reg2
  let b := sext imm5
  .next ((s.writeResult reg2 (a + b) (addFlags a b)).advance 2#32)

/-- ADDI imm16, reg1, reg2 (R242). -/
def execAddi (imm16 : BitVec 16) (reg1 reg2 : Reg) (s : State) : Result :=
  let a := s.gpr reg1
  let b := sext imm16
  .next ((s.writeResult reg2 (a + b) (addFlags a b)).advance 4#32)

/-- CMOV cccc, reg1, reg2, reg3 (R243). -/
def execCmovReg (cccc : Cond) (reg1 reg2 reg3 : Reg) (s : State) : Result :=
  .next ((s.setReg reg3 (if s.cond cccc then s.gpr reg1 else s.gpr reg2)).advance 4#32)

/-- CMOV cccc, imm5, reg2, reg3 (R243). -/
def execCmovImm5 (cccc : Cond) (imm5 : BitVec 5) (reg2 reg3 : Reg) (s : State) : Result :=
  .next ((s.setReg reg3 (if s.cond cccc then sext imm5 else s.gpr reg2)).advance 4#32)

/-- CMP reg1, reg2 (R244). -/
def execCmpReg (reg1 reg2 : Reg) (s : State) : Result :=
  .next ((s.setFlags (subFlags (s.gpr reg2) (s.gpr reg1))).advance 2#32)

/-- CMP imm5, reg2 (R244). -/
def execCmpImm5 (imm5 : BitVec 5) (reg2 : Reg) (s : State) : Result :=
  .next ((s.setFlags (subFlags (s.gpr reg2) (sext imm5))).advance 2#32)

/-- DIV reg1, reg2, reg3 (R251). -/
def execDiv (reg1 reg2 reg3 : Reg) (s : State) : Result :=
  let d := divideSigned s.draws (s.gpr reg2) (s.gpr reg1)
  .next ((s.writeDivision reg2 reg3 d).advance 4#32)

/-- DIVH reg1, reg2: the remainder is not stored (R252). -/
def execDivhReg2 (reg1 reg2 : Reg) (s : State) : Result :=
  let d := divideSigned s.draws (s.gpr reg2) (sextLow (s.gpr reg1))
  .next ((s.writeQuotient reg2 d).advance 2#32)

/-- DIVH reg1, reg2, reg3 (R252). -/
def execDivhReg3 (reg1 reg2 reg3 : Reg) (s : State) : Result :=
  let d := divideSigned s.draws (s.gpr reg2) (sextLow (s.gpr reg1))
  .next ((s.writeDivision reg2 reg3 d).advance 4#32)

/-- DIVHU reg1, reg2, reg3 (R253). -/
def execDivhu (reg1 reg2 reg3 : Reg) (s : State) : Result :=
  let d := divideUnsigned s.draws (s.gpr reg2) (zext (lowHalf (s.gpr reg1)))
  .next ((s.writeDivision reg2 reg3 d).advance 4#32)

/-- DIVU reg1, reg2, reg3 (R254). -/
def execDivu (reg1 reg2 reg3 : Reg) (s : State) : Result :=
  let d := divideUnsigned s.draws (s.gpr reg2) (s.gpr reg1)
  .next ((s.writeDivision reg2 reg3 d).advance 4#32)

/-- MOV reg1, reg2 (R245). -/
def execMovReg (reg1 reg2 : Reg) (s : State) : Result :=
  .next ((s.setReg reg2 (s.gpr reg1)).advance 2#32)

/-- MOV imm5, reg2 (R245). -/
def execMovImm5 (imm5 : BitVec 5) (reg2 : Reg) (s : State) : Result :=
  .next ((s.setReg reg2 (sext imm5)).advance 2#32)

/-- MOV imm32, reg1 (R245). -/
def execMovImm32 (imm32 : BitVec 32) (reg1 : Reg) (s : State) : Result :=
  .next ((s.setReg reg1 imm32).advance 6#32)

/-- MOVEA imm16, reg1, reg2 (R246). -/
def execMovea (imm16 : BitVec 16) (reg1 reg2 : Reg) (s : State) : Result :=
  .next ((s.setReg reg2 (s.gpr reg1 + sext imm16)).advance 4#32)

/-- MOVHI imm16, reg1, reg2 (R247). -/
def execMovhi (imm16 : BitVec 16) (reg1 reg2 : Reg) (s : State) : Result :=
  .next ((s.setReg reg2 (s.gpr reg1 + (imm16 ++ 0#16))).advance 4#32)

/-- SASF cccc, reg2 (R248). -/
def execSasf (cccc : Cond) (reg2 : Reg) (s : State) : Result :=
  .next ((s.setReg reg2 ((s.gpr reg2 <<< 1) ||| (if s.cond cccc then 1#32 else 0#32))).advance 4#32)

/-- SETF cccc, reg2 (R249). -/
def execSetf (cccc : Cond) (reg2 : Reg) (s : State) : Result :=
  .next ((s.setReg reg2 (if s.cond cccc then 1#32 else 0#32)).advance 4#32)

/-- SUB reg1, reg2 (R255). -/
def execSub (reg1 reg2 : Reg) (s : State) : Result :=
  let a := s.gpr reg2
  let b := s.gpr reg1
  .next ((s.writeResult reg2 (a - b) (subFlags a b)).advance 2#32)

/-- SUBR reg1, reg2 (R256). -/
def execSubr (reg1 reg2 : Reg) (s : State) : Result :=
  let a := s.gpr reg1
  let b := s.gpr reg2
  .next ((s.writeResult reg2 (a - b) (subFlags a b)).advance 2#32)

end Sys2Proof.Machine
end

