-- ==== Sys2Proof/Machine/BitManip.lean ====
section
/-! DEFINITION. Bit manipulation (spec/46_bit_manipulation.md). Only Z is written, nothing is raised (R321). -/

namespace Sys2Proof.Machine

/-- SET1 bit#3, disp16[reg1] (R322). -/
def execSet1Disp (bit3 : BitVec 3) (disp16 : BitVec 16) (reg1 : Reg) (s : State) : Result :=
  .next ((s.modifyBit (s.baseAddr reg1 disp16) bit3.toNat (fun _ => true)).advance 4#32)

/-- SET1 reg2, [reg1] (R322). -/
def execSet1Reg (reg2 reg1 : Reg) (s : State) : Result :=
  .next ((s.modifyBit (s.gpr reg1) (s.bitNumber reg2) (fun _ => true)).advance 4#32)

/-- NOT1 bit#3, disp16[reg1] (R324). -/
def execNot1Disp (bit3 : BitVec 3) (disp16 : BitVec 16) (reg1 : Reg) (s : State) : Result :=
  .next ((s.modifyBit (s.baseAddr reg1 disp16) bit3.toNat (fun old => !old)).advance 4#32)

/-- NOT1 reg2, [reg1] (R324). -/
def execNot1Reg (reg2 reg1 : Reg) (s : State) : Result :=
  .next ((s.modifyBit (s.gpr reg1) (s.bitNumber reg2) (fun old => !old)).advance 4#32)

/-- CLR1 bit#3, disp16[reg1] (R323). -/
def execClr1Disp (bit3 : BitVec 3) (disp16 : BitVec 16) (reg1 : Reg) (s : State) : Result :=
  .next ((s.modifyBit (s.baseAddr reg1 disp16) bit3.toNat (fun _ => false)).advance 4#32)

/-- CLR1 reg2, [reg1] (R323). -/
def execClr1Reg (reg2 reg1 : Reg) (s : State) : Result :=
  .next ((s.modifyBit (s.gpr reg1) (s.bitNumber reg2) (fun _ => false)).advance 4#32)

/-- TST1 bit#3, disp16[reg1] (R325). -/
def execTst1Disp (bit3 : BitVec 3) (disp16 : BitVec 16) (reg1 : Reg) (s : State) : Result :=
  .next ((s.testBit (s.baseAddr reg1 disp16) bit3.toNat).advance 4#32)

/-- TST1 reg2, [reg1] (R325). -/
def execTst1Reg (reg2 reg1 : Reg) (s : State) : Result :=
  .next ((s.testBit (s.gpr reg1) (s.bitNumber reg2)).advance 4#32)

end Sys2Proof.Machine
end

