-- ==== Sys2Proof/Machine/Branch.lean ====
section
/-! DEFINITION. Branches (spec/45_branch.md). No flag is written, nothing is raised (R310). -/

namespace Sys2Proof.Machine

/-- Bcond disp9, relative to this instruction (R311). -/
def execBcond (cccc : Cond) (disp9 : BitVec 9) (s : State) : Result :=
  if s.cond cccc then .next (s.jump (s.pc + sext disp9)) else .next (s.advance 2#32)

/-- JARL disp22, reg2 (R312; D22). -/
def execJarl (disp22 : BitVec 22) (reg2 : Reg) (s : State) : Result :=
  .next ((s.setReg reg2 (s.nextPC 4#32)).jump (s.pc + sext disp22))

/-- JMP [reg1] (R313). -/
def execJmp (reg1 : Reg) (s : State) : Result :=
  .next (s.jump (s.gpr reg1))

/-- JR disp22 (R314). -/
def execJr (disp22 : BitVec 22) (s : State) : Result :=
  .next (s.jump (s.pc + sext disp22))

end Sys2Proof.Machine
end

