-- ==== Sys2Proof/Machine/Debug.lean ====
section
/-! DEFINITION. Debug instructions and the illegal-instruction pattern (spec/48_debug.md, spec/60_exceptions.md R435 to R437). -/

namespace Sys2Proof.Machine

/-- The entry at 00000060h: exception trap, debug trap and debug function trap (R435, R437, R438). ECR is unchanged
(R436), DM is set with the debug pair. -/
def debugEntry (restorePC : Word) : Entry :=
  { pair := .db, restorePC := restorePC, cause := .none, setsNP := true, ep := true, handler := 0x00000060#32 }

/-- DBRET (R361). -/
def execDbret (s : State) : Result :=
  .next (({ s with dir := withDM false s.dir } : State).returnTo s.dbpc s.dbpsw)

/-- DBTRAP (R362). -/
def execDbtrap (s : State) : Result :=
  .next (s.takeException (debugEntry (s.nextPC 2#32)))

/-- The exception trap on the illegal pattern with bit 26 = 1 (spec/30_encoding.md R160; spec/60_exceptions.md R435). -/
def execIllegalHigh (_ : BitVec 5) (_ : BitVec 3) (_ : BitVec 6) (_ _ : BitVec 5) (s : State) : Result :=
  .next (s.takeException (debugEntry (s.nextPC 4#32)))

/-- The exception trap on the illegal pattern with bits 26..23 = 0111b (spec/30_encoding.md R160; spec/60_exceptions.md R435). -/
def execIllegalSeven (_ : BitVec 5) (_ : BitVec 6) (_ _ : BitVec 5) (s : State) : Result :=
  .next (s.takeException (debugEntry (s.nextPC 4#32)))

end Sys2Proof.Machine
end

