-- ==== Sys2Proof/Machine/LoadStore.lean ====
section
/-! DEFINITION. Load and store (spec/40_load_store.md). No flag is written, nothing is raised (R200). -/

namespace Sys2Proof.Machine

/-- LD.B disp16[reg1], reg2 (R201). -/
def execLdB (disp16 : BitVec 16) (reg1 reg2 : Reg) (s : State) : Result :=
  let a := s.baseAddr reg1 disp16
  .next (((s.afterRead 1 a).setReg reg2 (sext (s.loadByte a))).advance 4#32)

/-- LD.BU disp16[reg1], reg2 (R202). -/
def execLdBu (disp16 : BitVec 16) (reg1 reg2 : Reg) (s : State) : Result :=
  let a := s.baseAddr reg1 disp16
  .next (((s.afterRead 1 a).setReg reg2 (zext (s.loadByte a))).advance 4#32)

/-- LD.H disp16[reg1], reg2 (R203). -/
def execLdH (disp16 : BitVec 16) (reg1 reg2 : Reg) (s : State) : Result :=
  let a := s.product.halfAddr (s.baseAddr reg1 disp16)
  .next (((s.afterRead 2 a).setReg reg2 (sext (s.loadHalf a))).advance 4#32)

/-- LD.HU disp16[reg1], reg2 (R204). -/
def execLdHu (disp16 : BitVec 16) (reg1 reg2 : Reg) (s : State) : Result :=
  let a := s.product.halfAddr (s.baseAddr reg1 disp16)
  .next (((s.afterRead 2 a).setReg reg2 (zext (s.loadHalf a))).advance 4#32)

/-- LD.W disp16[reg1], reg2 (R205). -/
def execLdW (disp16 : BitVec 16) (reg1 reg2 : Reg) (s : State) : Result :=
  let a := s.product.wordAddr (s.baseAddr reg1 disp16)
  .next (((s.afterRead 4 a).setReg reg2 (s.loadWord a)).advance 4#32)

/-- SLD.B disp7[ep], reg2 (R206). -/
def execSldB (disp7 : BitVec 7) (reg2 : Reg) (s : State) : Result :=
  let a := s.epAddr disp7
  .next (((s.afterRead 1 a).setReg reg2 (sext (s.loadByte a))).advance 2#32)

/-- SLD.BU disp4[ep], reg2 (R207). -/
def execSldBu (disp4 : BitVec 4) (reg2 : Reg) (s : State) : Result :=
  let a := s.epAddr disp4
  .next (((s.afterRead 1 a).setReg reg2 (zext (s.loadByte a))).advance 2#32)

/-- SLD.H disp8[ep], reg2 (R208). -/
def execSldH (disp8 : BitVec 8) (reg2 : Reg) (s : State) : Result :=
  let a := s.product.halfAddr (s.epAddr disp8)
  .next (((s.afterRead 2 a).setReg reg2 (sext (s.loadHalf a))).advance 2#32)

/-- SLD.HU disp5[ep], reg2 (R209). -/
def execSldHu (disp5 : BitVec 5) (reg2 : Reg) (s : State) : Result :=
  let a := s.product.halfAddr (s.epAddr disp5)
  .next (((s.afterRead 2 a).setReg reg2 (zext (s.loadHalf a))).advance 2#32)

/-- SLD.W disp8[ep], reg2 (R210). -/
def execSldW (disp8 : BitVec 8) (reg2 : Reg) (s : State) : Result :=
  let a := s.product.wordAddr (s.epAddr disp8)
  .next (((s.afterRead 4 a).setReg reg2 (s.loadWord a)).advance 2#32)

/-- SST.B reg2, disp7[ep] (R214). -/
def execSstB (reg2 : Reg) (disp7 : BitVec 7) (s : State) : Result :=
  .next ((s.storeByte (s.epAddr disp7) ((s.gpr reg2).extractLsb' 0 8)).advance 2#32)

/-- SST.H reg2, disp8[ep] (R215). -/
def execSstH (reg2 : Reg) (disp8 : BitVec 8) (s : State) : Result :=
  .next ((s.storeHalf (s.product.halfAddr (s.epAddr disp8)) (lowHalf (s.gpr reg2))).advance 2#32)

/-- SST.W reg2, disp8[ep] (R216). -/
def execSstW (reg2 : Reg) (disp8 : BitVec 8) (s : State) : Result :=
  .next ((s.storeWord (s.product.wordAddr (s.epAddr disp8)) (s.gpr reg2)).advance 2#32)

/-- ST.B reg2, disp16[reg1] (R217). -/
def execStB (reg2 : Reg) (disp16 : BitVec 16) (reg1 : Reg) (s : State) : Result :=
  .next ((s.storeByte (s.baseAddr reg1 disp16) ((s.gpr reg2).extractLsb' 0 8)).advance 4#32)

/-- ST.H reg2, disp16[reg1] (R218). -/
def execStH (reg2 : Reg) (disp16 : BitVec 16) (reg1 : Reg) (s : State) : Result :=
  .next ((s.storeHalf (s.product.halfAddr (s.baseAddr reg1 disp16)) (lowHalf (s.gpr reg2))).advance 4#32)

/-- ST.W reg2, disp16[reg1] (R219). -/
def execStW (reg2 : Reg) (disp16 : BitVec 16) (reg1 : Reg) (s : State) : Result :=
  .next ((s.storeWord (s.product.wordAddr (s.baseAddr reg1 disp16)) (s.gpr reg2)).advance 4#32)

end Sys2Proof.Machine
end

