-- ==== Sys2Proof/Machine/Logical.lean ====
section
/-! DEFINITION. Logical operations, swaps, shifts and extensions (spec/44_logical.md). Nothing is raised (R280). -/

namespace Sys2Proof.Machine

/-- AND reg1, reg2 (R281). -/
def execAndReg (reg1 reg2 : Reg) (s : State) : Result :=
  let r := s.gpr reg2 &&& s.gpr reg1
  .next ((s.writeResult reg2 r (logicFlags r)).advance 2#32)

/-- ANDI imm16, reg1, reg2 (R282). -/
def execAndi (imm16 : BitVec 16) (reg1 reg2 : Reg) (s : State) : Result :=
  let r := s.gpr reg1 &&& zext imm16
  .next ((s.writeResult reg2 r (logicFlags r)).advance 4#32)

/-- BSH reg2, reg3 (R283). -/
def execBsh (reg2 reg3 : Reg) (s : State) : Result :=
  let a := s.gpr reg2
  let r := byteOf a 2 ++ byteOf a 3 ++ byteOf a 0 ++ byteOf a 1
  .next ((s.writeResult reg3 r (bshFlags r)).advance 4#32)

/-- BSW reg2, reg3 (R284). -/
def execBsw (reg2 reg3 : Reg) (s : State) : Result :=
  let a := s.gpr reg2
  let r := byteOf a 0 ++ byteOf a 1 ++ byteOf a 2 ++ byteOf a 3
  .next ((s.writeResult reg3 r (bswFlags r)).advance 4#32)

/-- HSW reg2, reg3 (R285). -/
def execHsw (reg2 reg3 : Reg) (s : State) : Result :=
  let a := s.gpr reg2
  let r := a.extractLsb' 0 16 ++ a.extractLsb' 16 16
  .next ((s.writeResult reg3 r (hswFlags r)).advance 4#32)

/-- NOT reg1, reg2 (R286). -/
def execNotReg (reg1 reg2 : Reg) (s : State) : Result :=
  let r := ~~~s.gpr reg1
  .next ((s.writeResult reg2 r (logicFlags r)).advance 2#32)

/-- OR reg1, reg2 (R287). -/
def execOrReg (reg1 reg2 : Reg) (s : State) : Result :=
  let r := s.gpr reg2 ||| s.gpr reg1
  .next ((s.writeResult reg2 r (logicFlags r)).advance 2#32)

/-- ORI imm16, reg1, reg2 (R288). -/
def execOri (imm16 : BitVec 16) (reg1 reg2 : Reg) (s : State) : Result :=
  let r := s.gpr reg1 ||| zext imm16
  .next ((s.writeResult reg2 r (logicFlags r)).advance 4#32)

/-- SAR reg1, reg2 (R290). -/
def execSarReg (reg1 reg2 : Reg) (s : State) : Result :=
  let a := s.gpr reg2
  let n := (s.gpr reg1).toNat % 32
  let r := a.sshiftRight n
  .next ((s.writeResult reg2 r (shiftFlags (carryRight a n) r)).advance 4#32)

/-- SAR imm5, reg2 (R290). -/
def execSarImm5 (imm5 : BitVec 5) (reg2 : Reg) (s : State) : Result :=
  let a := s.gpr reg2
  let n := imm5.toNat
  let r := a.sshiftRight n
  .next ((s.writeResult reg2 r (shiftFlags (carryRight a n) r)).advance 2#32)

/-- SHL reg1, reg2 (R291). -/
def execShlReg (reg1 reg2 : Reg) (s : State) : Result :=
  let a := s.gpr reg2
  let n := (s.gpr reg1).toNat % 32
  let r := a <<< n
  .next ((s.writeResult reg2 r (shiftFlags (carryLeft a n) r)).advance 4#32)

/-- SHL imm5, reg2 (R291). -/
def execShlImm5 (imm5 : BitVec 5) (reg2 : Reg) (s : State) : Result :=
  let a := s.gpr reg2
  let n := imm5.toNat
  let r := a <<< n
  .next ((s.writeResult reg2 r (shiftFlags (carryLeft a n) r)).advance 2#32)

/-- SHR reg1, reg2 (R292). -/
def execShrReg (reg1 reg2 : Reg) (s : State) : Result :=
  let a := s.gpr reg2
  let n := (s.gpr reg1).toNat % 32
  let r := a >>> n
  .next ((s.writeResult reg2 r (shiftFlags (carryRight a n) r)).advance 4#32)

/-- SHR imm5, reg2 (R292). -/
def execShrImm5 (imm5 : BitVec 5) (reg2 : Reg) (s : State) : Result :=
  let a := s.gpr reg2
  let n := imm5.toNat
  let r := a >>> n
  .next ((s.writeResult reg2 r (shiftFlags (carryRight a n) r)).advance 2#32)

/-- SXB reg1 (R293). -/
def execSxb (reg1 : Reg) (s : State) : Result :=
  .next ((s.setReg reg1 (sext ((s.gpr reg1).extractLsb' 0 8))).advance 2#32)

/-- SXH reg1 (R294). -/
def execSxh (reg1 : Reg) (s : State) : Result :=
  .next ((s.setReg reg1 (sext (lowHalf (s.gpr reg1)))).advance 2#32)

/-- TST reg1, reg2 (R295). -/
def execTst (reg1 reg2 : Reg) (s : State) : Result :=
  .next ((s.setFlags (logicFlags (s.gpr reg2 &&& s.gpr reg1))).advance 2#32)

/-- XOR reg1, reg2 (R296). -/
def execXorReg (reg1 reg2 : Reg) (s : State) : Result :=
  let r := s.gpr reg2 ^^^ s.gpr reg1
  .next ((s.writeResult reg2 r (logicFlags r)).advance 2#32)

/-- XORI imm16, reg1, reg2 (R297). -/
def execXori (imm16 : BitVec 16) (reg1 reg2 : Reg) (s : State) : Result :=
  let r := s.gpr reg1 ^^^ zext imm16
  .next ((s.writeResult reg2 r (logicFlags r)).advance 4#32)

/-- ZXB reg1 (R298). -/
def execZxb (reg1 : Reg) (s : State) : Result :=
  .next ((s.setReg reg1 (zext ((s.gpr reg1).extractLsb' 0 8))).advance 2#32)

/-- ZXH reg1 (R299). -/
def execZxh (reg1 : Reg) (s : State) : Result :=
  .next ((s.setReg reg1 (zext (lowHalf (s.gpr reg1)))).advance 2#32)

end Sys2Proof.Machine
end

