-- ==== Sys2Proof/Machine/Multiply.lean ====
section
/-! DEFINITION. Multiplication (spec/41_multiply.md). No flag is written, nothing is raised (R230); signedness is R231's (log 8). -/

namespace Sys2Proof.Machine

/-- MUL reg1, reg2, reg3 (R232); a prohibited register combination is refused (U5; log 19). -/
def execMulReg (reg1 reg2 reg3 : Reg) (s : State) : Result :=
  if prohibitedProduct reg1 reg2 reg3 then .refused .prohibitedRegisters
  else .next ((s.writeProduct reg2 reg3 (signedProduct (s.gpr reg2) (s.gpr reg1))).advance 4#32)

/-- MULU reg1, reg2, reg3 (R234); a prohibited register combination is refused (U5; log 19), its conditions taken from
MUL by the spec's own inference (R234, N21). -/
def execMuluReg (reg1 reg2 reg3 : Reg) (s : State) : Result :=
  if prohibitedProduct reg1 reg2 reg3 then .refused .prohibitedRegisters
  else .next ((s.writeProduct reg2 reg3 (unsignedProduct (s.gpr reg2) (s.gpr reg1))).advance 4#32)

/-- MUL imm9, reg2, reg3: imm9 is signed (R233). -/
def execMulImm9 (imm9 : BitVec 9) (reg2 reg3 : Reg) (s : State) : Result :=
  .next ((s.writeProduct reg2 reg3 (signedProduct (s.gpr reg2) (sext imm9))).advance 4#32)

/-- MULU imm9, reg2, reg3: imm9 is unsigned (R235; 90_conflicts.md C2). -/
def execMuluImm9 (imm9 : BitVec 9) (reg2 reg3 : Reg) (s : State) : Result :=
  .next ((s.writeProduct reg2 reg3 (unsignedProduct (s.gpr reg2) (zext imm9))).advance 4#32)

/-- MULH reg1, reg2 (R236). -/
def execMulhReg (reg1 reg2 : Reg) (s : State) : Result :=
  .next ((s.setReg reg2 ((signedProduct (sextLow (s.gpr reg2)) (sextLow (s.gpr reg1))).extractLsb' 0 32)).advance 2#32)

/-- MULH imm5, reg2 (R236). -/
def execMulhImm5 (imm5 : BitVec 5) (reg2 : Reg) (s : State) : Result :=
  .next ((s.setReg reg2 ((signedProduct (sextLow (s.gpr reg2)) (sext imm5)).extractLsb' 0 32)).advance 2#32)

/-- MULHI imm16, reg1, reg2 (R237). -/
def execMulhi (imm16 : BitVec 16) (reg1 reg2 : Reg) (s : State) : Result :=
  .next ((s.setReg reg2 ((signedProduct (sextLow (s.gpr reg1)) (sext imm16)).extractLsb' 0 32)).advance 4#32)

end Sys2Proof.Machine
end

