-- ==== Sys2Proof/Machine/Saturated.lean ====
section
/-! DEFINITION. Saturated operations (spec/43_saturated.md). Nothing is raised (R272). -/

namespace Sys2Proof.Machine

/-- SATADD reg1, reg2 (R273). -/
def execSataddReg (reg1 reg2 : Reg) (s : State) : Result :=
  let a := s.gpr reg2
  let b := s.gpr reg1
  let r := saturate (a.toInt + b.toInt)
  .next ((s.writeResult reg2 r.1 (saturatedFlags (decide (2 ^ 32 ≤ a.toNat + b.toNat)) r)).advance 2#32)

/-- SATADD imm5, reg2 (R273). -/
def execSataddImm5 (imm5 : BitVec 5) (reg2 : Reg) (s : State) : Result :=
  let a := s.gpr reg2
  let b := sext imm5
  let r := saturate (a.toInt + b.toInt)
  .next ((s.writeResult reg2 r.1 (saturatedFlags (decide (2 ^ 32 ≤ a.toNat + b.toNat)) r)).advance 2#32)

/-- SATSUB reg1, reg2 (R274). -/
def execSatsub (reg1 reg2 : Reg) (s : State) : Result :=
  let a := s.gpr reg2
  let b := s.gpr reg1
  let r := saturate (a.toInt - b.toInt)
  .next ((s.writeResult reg2 r.1 (saturatedFlags (decide (a.toNat < b.toNat)) r)).advance 2#32)

/-- SATSUBI imm16, reg1, reg2 (R275). -/
def execSatsubi (imm16 : BitVec 16) (reg1 reg2 : Reg) (s : State) : Result :=
  let a := s.gpr reg1
  let b := sext imm16
  let r := saturate (a.toInt - b.toInt)
  .next ((s.writeResult reg2 r.1 (saturatedFlags (decide (a.toNat < b.toNat)) r)).advance 4#32)

/-- SATSUBR reg1, reg2 (R276). -/
def execSatsubr (reg1 reg2 : Reg) (s : State) : Result :=
  let a := s.gpr reg1
  let b := s.gpr reg2
  let r := saturate (a.toInt - b.toInt)
  .next ((s.writeResult reg2 r.1 (saturatedFlags (decide (a.toNat < b.toNat)) r)).advance 2#32)

end Sys2Proof.Machine
end

