-- ==== Sys2Proof/Machine/Special.lean ====
section
/-! DEFINITION. Special instructions (spec/47_special.md). -/

namespace Sys2Proof.Machine

/-- CALLT imm6: the table entry is an unsigned offset from CTBP (R330; spec/20_memory.md R91). -/
def execCallt (imm6 : BitVec 6) (s : State) : Result :=
  let a := s.ctbp + (zext imm6 <<< 1)
  .next (({ s.afterRead 2 a with ctpc := s.nextPC 2#32, ctpsw := s.psw } : State).jump (s.ctbp + zext (s.loadHalf a)))

/-- CTRET (R331). -/
def execCtret (s : State) : Result :=
  .next (s.returnTo s.ctpc s.ctpsw)

/-- DI (R332). -/
def execDi (s : State) : Result :=
  .next (({ s with psw := withFlag .id true s.psw } : State).advance 4#32)

/-- DISPOSE imm5, list12 (R346). -/
def execDispose (imm5 : BitVec 5) (list12 : BitVec 12) (s : State) : Result :=
  .next ((s.disposeFrame imm5 list12).advance 4#32)

/-- DISPOSE imm5, list12, [reg1]: reg1 is read after the loads (R346). -/
def execDisposeJump (imm5 : BitVec 5) (list12 : BitVec 12) (reg1 : Reg) (s : State) : Result :=
  let t := s.disposeFrame imm5 list12
  .next (t.jump (t.gpr reg1))

/-- EI (R334). -/
def execEi (s : State) : Result :=
  .next (({ s with psw := withFlag .id false s.psw } : State).advance 4#32)

/-- HALT (R338). -/
def execHalt (s : State) : Result :=
  .next (({ s with halted := true } : State).advance 4#32)

/-- LDSR reg2, regID (R335); a register that may not be written is refused (spec/10_state.md R57, U3; log 20). -/
def execLdsr (reg2 : Reg) (regID : BitVec 5) (s : State) : Result :=
  match s.setSysReg regID (s.gpr reg2) with
  | some t => .next (t.advance 4#32)
  | none => .refused (.reservedSystemRegister regID)

/-- NOP (R337). -/
def execNop (s : State) : Result :=
  .next (s.advance 2#32)

/-- PREPARE list12, imm5 (R340). -/
def execPrepare (list12 : BitVec 12) (imm5 : BitVec 5) (s : State) : Result :=
  .next ((s.prepareFrame list12 imm5).advance 4#32)

/-- PREPARE list12, imm5, sp: ep gets the new sp (R342). -/
def execPrepareSp (list12 : BitVec 12) (imm5 : BitVec 5) (s : State) : Result :=
  .next (((s.prepareFrame list12 imm5).setReg regEP (s.preparedSP list12 imm5)).advance 4#32)

/-- PREPARE list12, imm5, imm16, sign-extended to ep (R343). -/
def execPrepareImm16 (list12 : BitVec 12) (imm5 : BitVec 5) (imm16 : BitVec 16) (s : State) : Result :=
  .next (((s.prepareFrame list12 imm5).setReg regEP (sext imm16)).advance 6#32)

/-- PREPARE list12, imm5, imm16 << 16 to ep (R344). -/
def execPrepareImm16Hi (list12 : BitVec 12) (imm5 : BitVec 5) (imm16 : BitVec 16) (s : State) : Result :=
  .next (((s.prepareFrame list12 imm5).setReg regEP (imm16 ++ 0#16)).advance 6#32)

/-- PREPARE list12, imm5, imm32 to ep (R345). -/
def execPrepareImm32 (list12 : BitVec 12) (imm5 : BitVec 5) (imm32 : BitVec 32) (s : State) : Result :=
  .next (((s.prepareFrame list12 imm5).setReg regEP imm32).advance 8#32)

/-- Was the NMI whose return is asked for one that RETI cannot return from (spec/60_exceptions.md R427; log 14). -/
def State.fromFinalNMI (s : State) : Bool :=
  s.ecr.extractLsb' 16 16 == 0x0020#16 || s.ecr.extractLsb' 16 16 == 0x0030#16

/-- RETI (R333): EP selects before NP; a return from NMI1 or NMI2 is refused (spec/60_exceptions.md R427, U8; log 14). -/
def execReti (s : State) : Result :=
  if flagOf s.psw .ep then .next (s.returnTo s.eipc s.eipsw)
  else if flagOf s.psw .np then
    if s.fromFinalNMI then .refused .nmiReturn else .next (s.returnTo s.fepc s.fepsw)
  else .next (s.returnTo s.eipc s.eipsw)

/-- STSR regID, reg2 (R336); a register that may not be read is refused (spec/10_state.md R57, U4; log 20). -/
def execStsr (regID : BitVec 5) (reg2 : Reg) (s : State) : Result :=
  match s.sysReg regID with
  | some v => .next ((s.setReg reg2 v).advance 4#32)
  | none => .refused (.reservedSystemRegister regID)

/-- SWITCH reg1: the table follows the instruction and holds signed halfword counts (R339). -/
def execSwitch (reg1 : Reg) (s : State) : Result :=
  let base := s.nextPC 2#32
  let a := base + (s.gpr reg1 <<< 1)
  .next ((s.afterRead 2 a).jump (base + (sext (s.loadHalf a) <<< 1)))

/-- The entry of TRAP vector (R347; spec/60_exceptions.md R420). -/
def State.trapEntry (s : State) (vector : BitVec 5) : Entry :=
  { pair := .ei, restorePC := s.nextPC 4#32, cause := .eicc (0x0040#16 + vector.setWidth 16), setsNP := false, ep := true
    handler := if vector.toNat ≤ 15 then 0x00000040#32 else 0x00000050#32 }

/-- TRAP vector (R347; spec/60_exceptions.md R420). -/
def execTrap (vector : BitVec 5) (s : State) : Result :=
  .next (s.takeException (s.trapEntry vector))

end Sys2Proof.Machine
end

