-- ==== Sys2Proof/WellFormed.lean ====
section
/-! DEFINITION. Which operand values an encoding has: the register conditions of spec/30_encoding.md R162 (the
"constraints" of spec/opcode_table.json) and the displacement bits that are not encoded (R141). -/

namespace Sys2Proof

/-- Bit 0 of a displacement is 0 (R141). -/
def evenDisp {n : Nat} (d : BitVec n) : Bool := !d.getLsbD 0

/-- The two low bits of a displacement are 0 (R141). -/
def wordDisp {n : Nat} (d : BitVec n) : Bool := !d.getLsbD 0 && !d.getLsbD 1

/-- A register operand that must not be r0 (R162). -/
def nonZero (r : Reg) : Bool := decide (r ≠ 0#5)

/-- The operands are ones that the instruction's encoding can carry. -/
def Instr.wf : Instr → Bool
  | .ldB _ _ _ => true
  | .ldBu _ _ reg2 => nonZero reg2
  | .ldH disp16 _ _ => evenDisp disp16
  | .ldHu disp16 _ reg2 => evenDisp disp16 && nonZero reg2
  | .ldW disp16 _ _ => evenDisp disp16
  | .sldB _ _ => true
  | .sldBu _ reg2 => nonZero reg2
  | .sldH disp8 _ => evenDisp disp8
  | .sldHu disp5 reg2 => evenDisp disp5 && nonZero reg2
  | .sldW disp8 _ => wordDisp disp8
  | .sstB _ _ => true
  | .sstH _ disp8 => evenDisp disp8
  | .sstW _ disp8 => wordDisp disp8
  | .stB _ _ _ => true
  | .stH _ disp16 _ => evenDisp disp16
  | .stW _ disp16 _ => evenDisp disp16
  | .mulReg _ _ _ => true
  | .mulImm9 _ _ _ => true
  | .muluReg _ _ _ => true
  | .muluImm9 _ _ _ => true
  | .mulhReg _ reg2 => nonZero reg2
  | .mulhImm5 _ reg2 => nonZero reg2
  | .mulhi _ _ reg2 => nonZero reg2
  | .addReg _ _ => true
  | .addImm5 _ _ => true
  | .addi _ _ _ => true
  | .cmovReg _ _ _ _ => true
  | .cmovImm5 _ _ _ _ => true
  | .cmpReg _ _ => true
  | .cmpImm5 _ _ => true
  | .div _ _ _ => true
  | .divhReg2 reg1 reg2 => nonZero reg1 && nonZero reg2
  | .divhReg3 _ _ _ => true
  | .divhu _ _ _ => true
  | .divu _ _ _ => true
  | .movReg reg1 reg2 => nonZero reg1 || nonZero reg2
  | .movImm5 _ reg2 => nonZero reg2
  | .movImm32 _ _ => true
  | .movea _ _ reg2 => nonZero reg2
  | .movhi _ _ reg2 => nonZero reg2
  | .sasf _ _ => true
  | .setf _ _ => true
  | .sub _ _ => true
  | .subr _ _ => true
  | .sataddReg _ reg2 => nonZero reg2
  | .sataddImm5 _ reg2 => nonZero reg2
  | .satsub _ reg2 => nonZero reg2
  | .satsubi _ _ reg2 => nonZero reg2
  | .satsubr _ reg2 => nonZero reg2
  | .andReg _ _ => true
  | .andi _ _ _ => true
  | .bsh _ _ => true
  | .bsw _ _ => true
  | .hsw _ _ => true
  | .notReg _ _ => true
  | .orReg _ _ => true
  | .ori _ _ _ => true
  | .sarReg _ _ => true
  | .sarImm5 _ _ => true
  | .shlReg _ _ => true
  | .shlImm5 _ _ => true
  | .shrReg _ _ => true
  | .shrImm5 _ _ => true
  | .sxb _ => true
  | .sxh _ => true
  | .tst _ _ => true
  | .xorReg _ _ => true
  | .xori _ _ _ => true
  | .zxb _ => true
  | .zxh _ => true
  | .bcond _ disp9 => evenDisp disp9
  | .jarl disp22 reg2 => evenDisp disp22 && nonZero reg2
  | .jmp _ => true
  | .jr disp22 => evenDisp disp22
  | .set1Disp _ _ _ => true
  | .set1Reg _ _ => true
  | .not1Disp _ _ _ => true
  | .not1Reg _ _ => true
  | .clr1Disp _ _ _ => true
  | .clr1Reg _ _ => true
  | .tst1Disp _ _ _ => true
  | .tst1Reg _ _ => true
  | .callt _ => true
  | .ctret => true
  | .di => true
  | .dispose _ _ => true
  | .disposeJump _ _ reg1 => nonZero reg1
  | .ei => true
  | .halt => true
  | .ldsr _ _ => true
  | .nop => true
  | .prepare _ _ => true
  | .prepareSp _ _ => true
  | .prepareImm16 _ _ _ => true
  | .prepareImm16Hi _ _ _ => true
  | .prepareImm32 _ _ _ => true
  | .reti => true
  | .stsr _ _ => true
  | .switch reg1 => nonZero reg1
  | .trap _ => true
  | .dbret => true
  | .dbtrap => true
  | .illegalHigh _ _ _ _ _ => true
  | .illegalSeven _ _ _ _ => true

end Sys2Proof
end

