-- ==== Sys2Proof/Decode.lean ====
section
/-! DEFINITION. Decoding and encoding (spec/30_encoding.md R120 to R165). The decoder follows the opcode map of
R150 to R160 cell by cell, on the list of halfwords at the program counter; the encoder writes the patterns of
spec/opcode_table.json. -/

namespace Sys2Proof

/-! ### Fields of a halfword (R121 to R133). Bits 26..21 of a 32-bit instruction are bits 10..5 of its second halfword, so
`rowOf` and `colOf` serve the map of R150 on the first halfword and that of R159 on the second. -/

/-- Bits 4..0 of the first halfword: reg1, imm5, vector (R136, R140). -/
def reg1Of (h : Half) : Reg := h.extractLsb' 0 5

/-- Bits 15..11 of the first halfword: reg2 (R136). -/
def reg2Of (h : Half) : Reg := h.extractLsb' 11 5

/-- Bits 31..27, the top of the second halfword: reg3 (R136). -/
def reg3Of (h1 : Half) : Reg := h1.extractLsb' 11 5

/-- Bits 10..7: the row of the opcode map. -/
def rowOf (h : Half) : BitVec 4 := h.extractLsb' 7 4

/-- Bits 6..5: the column of the opcode map. -/
def colOf (h : Half) : BitVec 2 := h.extractLsb' 5 2

/-- Bits 4..0 of the second halfword, instruction bits 20..16. -/
def subOf (h1 : Half) : BitVec 5 := h1.extractLsb' 0 5

/-- imm5 of PREPARE and DISPOSE: bits 5..1 (R133). -/
def stackImmOf (h : Half) : BitVec 5 := h.extractLsb' 1 5

/-- disp16 whose bit 0 is not encoded: bits 31..17 (R141). -/
def evenDisp16Of (h1 : Half) : BitVec 16 := h1.extractLsb' 1 15 ++ 0#1

/-- disp22: bits 5..0 and 31..17 (R125, R141). -/
def disp22Of (h h1 : Half) : BitVec 22 := h.extractLsb' 0 6 ++ h1.extractLsb' 1 15 ++ 0#1

/-- disp9: bits 15..11 and 6..4 (R123, R141). -/
def disp9Of (h : Half) : BitVec 9 := h.extractLsb' 11 5 ++ h.extractLsb' 4 3 ++ 0#1

/-- imm9: bits 21..18 and 4..0 (R132, R140). -/
def imm9Of (h h1 : Half) : BitVec 9 := h1.extractLsb' 2 4 ++ h.extractLsb' 0 5

/-- The register list: bit k of the result is the instruction bit of r(20+k) (R142). -/
def listOf (h h1 : Half) : BitVec 12 :=
  BitVec.ofBoolListLE [h1.getLsbD 11, h1.getLsbD 10, h1.getLsbD 9, h1.getLsbD 8, h1.getLsbD 15, h1.getLsbD 14,
    h1.getLsbD 13, h1.getLsbD 12, h1.getLsbD 7, h1.getLsbD 6, h.getLsbD 0, h1.getLsbD 5]

/-- The condition of a 4-bit code (R145). -/
def Cond.ofBits (b : BitVec 4) : Cond :=
  match b with
  | 0b0000#4 => .v
  | 0b0001#4 => .l
  | 0b0010#4 => .z
  | 0b0011#4 => .nh
  | 0b0100#4 => .s
  | 0b0101#4 => .t
  | 0b0110#4 => .lt
  | 0b0111#4 => .le
  | 0b1000#4 => .nv
  | 0b1001#4 => .nl
  | 0b1010#4 => .nz
  | 0b1011#4 => .h
  | 0b1100#4 => .ns
  | 0b1101#4 => .sa
  | 0b1110#4 => .ge
  | _ => .gt

/-- The 4-bit code of a condition (R145). -/
def Cond.toBits : Cond → BitVec 4
  | .v => 0b0000#4
  | .l => 0b0001#4
  | .z => 0b0010#4
  | .nh => 0b0011#4
  | .s => 0b0100#4
  | .t => 0b0101#4
  | .lt => 0b0110#4
  | .le => 0b0111#4
  | .nv => 0b1000#4
  | .nl => 0b1001#4
  | .nz => 0b1010#4
  | .h => 0b1011#4
  | .ns => 0b1100#4
  | .sa => 0b1101#4
  | .ge => 0b1110#4
  | .gt => 0b1111#4

/-! ### The decoder -/

/-- Row 0000: MOV and NOP (R151), NOT, the DIVH column (R152), the JMP column (R153). -/
def decodeRow0 (h : Half) : Except Undefined Instr :=
  match colOf h with
  | 0b00#2 => if h = 0#16 then .ok .nop else .ok (.movReg (reg1Of h) (reg2Of h))
  | 0b01#2 => .ok (.notReg (reg1Of h) (reg2Of h))
  | 0b10#2 =>
    if reg1Of h = 0#5 then (if reg2Of h = 31#5 then .ok .dbtrap else .error .divhReg1Zero)
    else if reg2Of h = 0#5 then .ok (.switch (reg1Of h))
    else .ok (.divhReg2 (reg1Of h) (reg2Of h))
  | _ =>
    if reg2Of h = 0#5 then .ok (.jmp (reg1Of h))
    else if h.getLsbD 4 then .ok (.sldHu (h.extractLsb' 0 4 ++ 0#1) (reg2Of h))
    else .ok (.sldBu (h.extractLsb' 0 4) (reg2Of h))

/-- Row 0001 (R154). -/
def decodeRow1 (h : Half) : Except Undefined Instr :=
  match colOf h with
  | 0b00#2 => if reg2Of h = 0#5 then .ok (.zxb (reg1Of h)) else .ok (.satsubr (reg1Of h) (reg2Of h))
  | 0b01#2 => if reg2Of h = 0#5 then .ok (.sxb (reg1Of h)) else .ok (.satsub (reg1Of h) (reg2Of h))
  | 0b10#2 => if reg2Of h = 0#5 then .ok (.zxh (reg1Of h)) else .ok (.sataddReg (reg1Of h) (reg2Of h))
  | _ => if reg2Of h = 0#5 then .ok (.sxh (reg1Of h)) else .ok (.mulhReg (reg1Of h) (reg2Of h))

/-- Row 0010 (R150). -/
def decodeRow2 (h : Half) : Except Undefined Instr :=
  match colOf h with
  | 0b00#2 => .ok (.orReg (reg1Of h) (reg2Of h))
  | 0b01#2 => .ok (.xorReg (reg1Of h) (reg2Of h))
  | 0b10#2 => .ok (.andReg (reg1Of h) (reg2Of h))
  | _ => .ok (.tst (reg1Of h) (reg2Of h))

/-- Row 0011 (R150). -/
def decodeRow3 (h : Half) : Except Undefined Instr :=
  match colOf h with
  | 0b00#2 => .ok (.subr (reg1Of h) (reg2Of h))
  | 0b01#2 => .ok (.sub (reg1Of h) (reg2Of h))
  | 0b10#2 => .ok (.addReg (reg1Of h) (reg2Of h))
  | _ => .ok (.cmpReg (reg1Of h) (reg2Of h))

/-- Row 0100: the immediate forms and CALLT (R155). -/
def decodeRow4 (h : Half) : Except Undefined Instr :=
  match colOf h with
  | 0b00#2 => if reg2Of h = 0#5 then .ok (.callt (h.extractLsb' 0 6)) else .ok (.movImm5 (reg1Of h) (reg2Of h))
  | 0b01#2 => if reg2Of h = 0#5 then .ok (.callt (h.extractLsb' 0 6)) else .ok (.sataddImm5 (reg1Of h) (reg2Of h))
  | 0b10#2 => .ok (.addImm5 (reg1Of h) (reg2Of h))
  | _ => .ok (.cmpImm5 (reg1Of h) (reg2Of h))

/-- Row 0101: shifts by an immediate, MULH imm5 (R150, R155). -/
def decodeRow5 (h : Half) : Except Undefined Instr :=
  match colOf h with
  | 0b00#2 => .ok (.shrImm5 (reg1Of h) (reg2Of h))
  | 0b01#2 => .ok (.sarImm5 (reg1Of h) (reg2Of h))
  | 0b10#2 => .ok (.shlImm5 (reg1Of h) (reg2Of h))
  | _ => if reg2Of h = 0#5 then .error .mulhImm5Reg2Zero else .ok (.mulhImm5 (reg1Of h) (reg2Of h))

/-- Row 1010: SLD.W and SST.W by bit 0 (R150). -/
def decodeRow10 (h : Half) : Except Undefined Instr :=
  if h.getLsbD 0 then .ok (.sstW (reg2Of h) (h.extractLsb' 1 6 ++ 0#2))
  else .ok (.sldW (h.extractLsb' 1 6 ++ 0#2) (reg2Of h))

/-- DISPOSE, both forms (R156, R346). -/
def decodeDispose (h h1 : Half) : Except Undefined Instr :=
  if subOf h1 = 0#5 then .ok (.dispose (stackImmOf h) (listOf h h1))
  else .ok (.disposeJump (stackImmOf h) (listOf h h1) (subOf h1))

/-- Row 1100 (R150, R156). -/
def decodeRow12 (h h1 : Half) (more : List Half) : Except Undefined Instr :=
  match colOf h with
  | 0b00#2 => .ok (.addi h1 (reg1Of h) (reg2Of h))
  | 0b01#2 =>
    if reg2Of h = 0#5 then
      match more with
      | h2 :: _ => .ok (.movImm32 (h2 ++ h1) (reg1Of h))
      | [] => .error .truncated
    else .ok (.movea h1 (reg1Of h) (reg2Of h))
  | 0b10#2 => if reg2Of h = 0#5 then decodeDispose h h1 else .ok (.movhi h1 (reg1Of h) (reg2Of h))
  | _ => if reg2Of h = 0#5 then decodeDispose h h1 else .ok (.satsubi h1 (reg1Of h) (reg2Of h))

/-- Row 1101 (R150, R155). -/
def decodeRow13 (h h1 : Half) : Except Undefined Instr :=
  match colOf h with
  | 0b00#2 => .ok (.ori h1 (reg1Of h) (reg2Of h))
  | 0b01#2 => .ok (.xori h1 (reg1Of h) (reg2Of h))
  | 0b10#2 => .ok (.andi h1 (reg1Of h) (reg2Of h))
  | _ => if reg2Of h = 0#5 then .error .mulhiReg2Zero else .ok (.mulhi h1 (reg1Of h) (reg2Of h))

/-- Row 1110: LD and ST, word or halfword by bit 16 (R127, R150). -/
def decodeRow14 (h h1 : Half) : Except Undefined Instr :=
  match colOf h with
  | 0b00#2 => .ok (.ldB h1 (reg1Of h) (reg2Of h))
  | 0b01#2 =>
    if h1.getLsbD 0 then .ok (.ldW (evenDisp16Of h1) (reg1Of h) (reg2Of h))
    else .ok (.ldH (evenDisp16Of h1) (reg1Of h) (reg2Of h))
  | 0b10#2 => .ok (.stB (reg2Of h) h1 (reg1Of h))
  | _ =>
    if h1.getLsbD 0 then .ok (.stW (reg2Of h) (evenDisp16Of h1) (reg1Of h))
    else .ok (.stH (reg2Of h) (evenDisp16Of h1) (reg1Of h))

/-- PREPARE by bits 20..16 (R133, R157, R340 to R345). -/
def decodePrepare (h h1 : Half) (more : List Half) : Except Undefined Instr :=
  match subOf h1 with
  | 0b00001#5 => .ok (.prepare (listOf h h1) (stackImmOf h))
  | 0b00011#5 => .ok (.prepareSp (listOf h h1) (stackImmOf h))
  | 0b01011#5 =>
    match more with
    | h2 :: _ => .ok (.prepareImm16 (listOf h h1) (stackImmOf h) h2)
    | [] => .error .truncated
  | 0b10011#5 =>
    match more with
    | h2 :: _ => .ok (.prepareImm16Hi (listOf h h1) (stackImmOf h) h2)
    | [] => .error .truncated
  | 0b11011#5 =>
    match more with
    | h2 :: h3 :: _ => .ok (.prepareImm32 (listOf h h1) (stackImmOf h) (h3 ++ h2))
    | _ => .error .truncated
  | _ => .error .prepareForm

/-- Opcodes 11110xb: JR, JARL, LD.BU, PREPARE (R157). -/
def decodeJump (h h1 : Half) (more : List Half) : Except Undefined Instr :=
  if h1.getLsbD 0 then
    if reg2Of h = 0#5 then decodePrepare h h1 more
    else .ok (.ldBu (h1.extractLsb' 1 15 ++ h.extractLsb' 5 1) (reg1Of h) (reg2Of h))
  else if reg2Of h = 0#5 then .ok (.jr (disp22Of h h1))
  else .ok (.jarl (disp22Of h h1) (reg2Of h))

/-- Opcode 111110b: bit manipulation 1 by bits 15..14 (R128). -/
def decodeBit1 (h h1 : Half) : Except Undefined Instr :=
  match h.extractLsb' 14 2 with
  | 0b00#2 => .ok (.set1Disp (h.extractLsb' 11 3) h1 (reg1Of h))
  | 0b01#2 => .ok (.not1Disp (h.extractLsb' 11 3) h1 (reg1Of h))
  | 0b10#2 => .ok (.clr1Disp (h.extractLsb' 11 3) h1 (reg1Of h))
  | _ => .ok (.tst1Disp (h.extractLsb' 11 3) h1 (reg1Of h))

/-- Expansion 1, row 0000: SETF, LDSR, STSR (R159). -/
def expandRow0 (h h1 : Half) : Except Undefined Instr :=
  match colOf h1 with
  | 0b00#2 =>
    if h1 ≠ 0x0000#16 then .error .fixedBits
    else if h.getLsbD 4 then .error .condBit4
    else .ok (.setf (.ofBits (h.extractLsb' 0 4)) (reg2Of h))
  | 0b01#2 => if h1 = 0x0020#16 then .ok (.ldsr (reg1Of h) (reg2Of h)) else .error .fixedBits
  | 0b10#2 => if h1 = 0x0040#16 then .ok (.stsr (reg1Of h) (reg2Of h)) else .error .fixedBits
  | _ => .error .blankCell

/-- Expansion 1, row 0001: shifts by a register, bit manipulation 2 (R159). -/
def expandRow1 (h h1 : Half) : Except Undefined Instr :=
  match colOf h1 with
  | 0b00#2 => if h1 = 0x0080#16 then .ok (.shrReg (reg1Of h) (reg2Of h)) else .error .fixedBits
  | 0b01#2 => if h1 = 0x00A0#16 then .ok (.sarReg (reg1Of h) (reg2Of h)) else .error .fixedBits
  | 0b10#2 => if h1 = 0x00C0#16 then .ok (.shlReg (reg1Of h) (reg2Of h)) else .error .fixedBits
  | _ =>
    if h1 = 0x00E0#16 then .ok (.set1Reg (reg2Of h) (reg1Of h))
    else if h1 = 0x00E2#16 then .ok (.not1Reg (reg2Of h) (reg1Of h))
    else if h1 = 0x00E4#16 then .ok (.clr1Reg (reg2Of h) (reg1Of h))
    else if h1 = 0x00E6#16 then .ok (.tst1Reg (reg2Of h) (reg1Of h))
    else .error .fixedBits

/-- Expansion 1, row 0010: TRAP, HALT, the return instructions, DI and EI (R130, R159). -/
def expandRow2 (h h1 : Half) : Except Undefined Instr :=
  match colOf h1 with
  | 0b00#2 => if h1 = 0x0100#16 ∧ reg2Of h = 0#5 then .ok (.trap (reg1Of h)) else .error .fixedBits
  | 0b01#2 => if h1 = 0x0120#16 ∧ h = 0x07E0#16 then .ok .halt else .error .fixedBits
  | 0b10#2 =>
    if h ≠ 0x07E0#16 then .error .fixedBits
    else if h1 = 0x0140#16 then .ok .reti
    else if h1 = 0x0142#16 then .error .blankCell
    else if h1 = 0x0144#16 then .ok .ctret
    else if h1 = 0x0146#16 then .ok .dbret
    else .error .fixedBits
  | _ =>
    if h1 ≠ 0x0160#16 then .error .fixedBits
    else if h = 0x07E0#16 then .ok .di
    else if h = 0x87E0#16 then .ok .ei
    else .error .blankCell

/-- Expansion 1, row 0100: SASF, MUL and MULU (R159). -/
def expandRow4 (h h1 : Half) : Except Undefined Instr :=
  match colOf h1 with
  | 0b00#2 =>
    if h1 ≠ 0x0200#16 then .error .fixedBits
    else if h.getLsbD 4 then .error .condBit4
    else .ok (.sasf (.ofBits (h.extractLsb' 0 4)) (reg2Of h))
  | 0b01#2 =>
    if subOf h1 = 0b00000#5 then .ok (.mulReg (reg1Of h) (reg2Of h) (reg3Of h1))
    else if subOf h1 = 0b00010#5 then .ok (.muluReg (reg1Of h) (reg2Of h) (reg3Of h1))
    else .error .fixedBits
  | _ =>
    if h1.getLsbD 1 then .ok (.muluImm9 (imm9Of h h1) (reg2Of h) (reg3Of h1))
    else .ok (.mulImm9 (imm9Of h h1) (reg2Of h) (reg3Of h1))

/-- Expansion 1, row 0101: the three-register divisions (R159). -/
def expandRow5 (h h1 : Half) : Except Undefined Instr :=
  match colOf h1 with
  | 0b00#2 =>
    if subOf h1 = 0b00000#5 then .ok (.divhReg3 (reg1Of h) (reg2Of h) (reg3Of h1))
    else if subOf h1 = 0b00010#5 then .ok (.divhu (reg1Of h) (reg2Of h) (reg3Of h1))
    else .error .fixedBits
  | 0b10#2 =>
    if subOf h1 = 0b00000#5 then .ok (.div (reg1Of h) (reg2Of h) (reg3Of h1))
    else if subOf h1 = 0b00010#5 then .ok (.divu (reg1Of h) (reg2Of h) (reg3Of h1))
    else .error .fixedBits
  | _ => .error .blankCell

/-- Expansion 1, row 0110: CMOV and the swaps (R131, R132, R159). -/
def expandRow6 (h h1 : Half) : Except Undefined Instr :=
  match colOf h1 with
  | 0b00#2 => .ok (.cmovImm5 (.ofBits (h1.extractLsb' 1 4)) (reg1Of h) (reg2Of h) (reg3Of h1))
  | 0b01#2 => .ok (.cmovReg (.ofBits (h1.extractLsb' 1 4)) (reg1Of h) (reg2Of h) (reg3Of h1))
  | 0b10#2 =>
    if reg1Of h ≠ 0#5 then .error .fixedBits
    else if subOf h1 = 0b00000#5 then .ok (.bsw (reg2Of h) (reg3Of h1))
    else if subOf h1 = 0b00010#5 then .ok (.bsh (reg2Of h) (reg3Of h1))
    else if subOf h1 = 0b00100#5 then .ok (.hsw (reg2Of h) (reg3Of h1))
    else if subOf h1 = 0b00110#5 then .error .blankCell
    else .error .fixedBits
  | _ => .error .blankCell

/-- Expansion 1: opcode 111111b with bit 16 = 0 (R159, R160). -/
def decodeExpansion (h h1 : Half) : Except Undefined Instr :=
  match rowOf h1 with
  | 0b0000#4 => expandRow0 h h1
  | 0b0001#4 => expandRow1 h h1
  | 0b0010#4 => expandRow2 h h1
  | 0b0011#4 => .error .blankCell
  | 0b0100#4 => expandRow4 h h1
  | 0b0101#4 => expandRow5 h h1
  | 0b0110#4 => expandRow6 h h1
  | 0b0111#4 => .ok (.illegalSeven (reg3Of h1) (h1.extractLsb' 1 6) (reg2Of h) (reg1Of h))
  | _ => .ok (.illegalHigh (reg3Of h1) (h1.extractLsb' 7 3) (h1.extractLsb' 1 6) (reg2Of h) (reg1Of h))

/-- Row 1111 (R150, R157, R158). -/
def decodeRow15 (h h1 : Half) (more : List Half) : Except Undefined Instr :=
  match colOf h with
  | 0b10#2 => decodeBit1 h h1
  | 0b11#2 =>
    if h1.getLsbD 0 then
      if reg2Of h = 0#5 then .error .ldhuReg2Zero
      else .ok (.ldHu (evenDisp16Of h1) (reg1Of h) (reg2Of h))
    else decodeExpansion h h1
  | _ => decodeJump h h1 more

/-- A 32-bit or longer instruction: bits 10..9 of its first halfword are 11b (R135). -/
def decodeLong (h h1 : Half) (more : List Half) : Except Undefined Instr :=
  match rowOf h with
  | 0b1100#4 => decodeRow12 h h1 more
  | 0b1101#4 => decodeRow13 h h1
  | 0b1110#4 => decodeRow14 h h1
  | _ => decodeRow15 h h1 more

/-- The instruction that starts a list of halfwords, in fetch order (R165). -/
def decode : List Half → Except Undefined Instr
  | [] => .error .truncated
  | h :: rest =>
    match rowOf h with
    | 0b0000#4 => decodeRow0 h
    | 0b0001#4 => decodeRow1 h
    | 0b0010#4 => decodeRow2 h
    | 0b0011#4 => decodeRow3 h
    | 0b0100#4 => decodeRow4 h
    | 0b0101#4 => decodeRow5 h
    | 0b0110#4 => .ok (.sldB (h.extractLsb' 0 7) (reg2Of h))
    | 0b0111#4 => .ok (.sstB (reg2Of h) (h.extractLsb' 0 7))
    | 0b1000#4 => .ok (.sldH (h.extractLsb' 0 7 ++ 0#1) (reg2Of h))
    | 0b1001#4 => .ok (.sstH (reg2Of h) (h.extractLsb' 0 7 ++ 0#1))
    | 0b1010#4 => decodeRow10 h
    | 0b1011#4 => .ok (.bcond (.ofBits (h.extractLsb' 0 4)) (disp9Of h))
    | _ =>
      match rest with
      | h1 :: more => decodeLong h h1 more
      | [] => .error .truncated

/-- The halfwords of a list of bytes, little endian (R120, spec/20_memory.md R84). -/
def halvesOfBytes : List Byte → List Half
  | lo :: hi :: rest => (hi ++ lo) :: halvesOfBytes rest
  | _ => []

/-- The instruction that starts a list of bytes in address order. -/
def decodeBytes (bytes : List Byte) : Except Undefined Instr := decode (halvesOfBytes bytes)

/-! ### Lengths and the encoder -/

/-- The length in bytes (R135). -/
def Instr.length : Instr → Nat
  | .ldB _ _ _ | .ldBu _ _ _ | .ldH _ _ _ | .ldHu _ _ _ | .ldW _ _ _ => 4
  | .sldB _ _ | .sldBu _ _ | .sldH _ _ | .sldHu _ _ | .sldW _ _ => 2
  | .sstB _ _ | .sstH _ _ | .sstW _ _ => 2
  | .stB _ _ _ | .stH _ _ _ | .stW _ _ _ => 4
  | .mulReg _ _ _ | .mulImm9 _ _ _ | .muluReg _ _ _ | .muluImm9 _ _ _ => 4
  | .mulhReg _ _ | .mulhImm5 _ _ => 2
  | .mulhi _ _ _ => 4
  | .addReg _ _ | .addImm5 _ _ => 2
  | .addi _ _ _ => 4
  | .cmovReg _ _ _ _ | .cmovImm5 _ _ _ _ => 4
  | .cmpReg _ _ | .cmpImm5 _ _ => 2
  | .div _ _ _ => 4
  | .divhReg2 _ _ => 2
  | .divhReg3 _ _ _ | .divhu _ _ _ | .divu _ _ _ => 4
  | .movReg _ _ | .movImm5 _ _ => 2
  | .movImm32 _ _ => 6
  | .movea _ _ _ | .movhi _ _ _ => 4
  | .sasf _ _ | .setf _ _ => 4
  | .sub _ _ | .subr _ _ => 2
  | .sataddReg _ _ | .sataddImm5 _ _ | .satsub _ _ | .satsubr _ _ => 2
  | .satsubi _ _ _ => 4
  | .andReg _ _ | .notReg _ _ | .orReg _ _ | .tst _ _ | .xorReg _ _ => 2
  | .andi _ _ _ | .ori _ _ _ | .xori _ _ _ => 4
  | .bsh _ _ | .bsw _ _ | .hsw _ _ => 4
  | .sarReg _ _ | .shlReg _ _ | .shrReg _ _ => 4
  | .sarImm5 _ _ | .shlImm5 _ _ | .shrImm5 _ _ => 2
  | .sxb _ | .sxh _ | .zxb _ | .zxh _ => 2
  | .bcond _ _ => 2
  | .jarl _ _ | .jr _ => 4
  | .jmp _ => 2
  | .set1Disp _ _ _ | .not1Disp _ _ _ | .clr1Disp _ _ _ | .tst1Disp _ _ _ => 4
  | .set1Reg _ _ | .not1Reg _ _ | .clr1Reg _ _ | .tst1Reg _ _ => 4
  | .callt _ => 2
  | .ctret | .di | .ei | .halt | .reti | .dbret => 4
  | .dispose _ _ | .disposeJump _ _ _ => 4
  | .ldsr _ _ | .stsr _ _ => 4
  | .nop => 2
  | .prepare _ _ | .prepareSp _ _ => 4
  | .prepareImm16 _ _ _ | .prepareImm16Hi _ _ _ => 6
  | .prepareImm32 _ _ _ => 8
  | .switch _ => 2
  | .trap _ => 4
  | .dbtrap => 2
  | .illegalHigh _ _ _ _ _ | .illegalSeven _ _ _ _ => 4

/-- reg2, a 6-bit opcode, reg1: format I and the first halfword of formats VI, VII, IX, XI (R121). -/
def fmtI (reg2 : Reg) (op : BitVec 6) (reg1 : BitVec 5) : Half := reg2 ++ op ++ reg1

/-- Format III: disp9[8:4], 1011b, disp9[3:1], condition (R123). -/
def fmtIII (disp9 : BitVec 9) (cond : BitVec 4) : Half :=
  disp9.extractLsb' 4 5 ++ 0b1011#4 ++ disp9.extractLsb' 1 3 ++ cond

/-- Format IV: reg2, a 4-bit opcode, 7 bits of displacement and sub-opcode (R124). -/
def fmtIV (reg2 : Reg) (op : BitVec 4) (low : BitVec 7) : Half := reg2 ++ op ++ low

/-- First halfword of format V: reg2, 11110b, disp22[21:16] (R125). -/
def fmtV (reg2 : Reg) (low : BitVec 6) : Half := reg2 ++ 0b11110#5 ++ low

/-- Second halfword with 15 bits of displacement and bit 16 (R125, R127). -/
def dispHalf (d : BitVec 15) (bit16 : BitVec 1) : Half := d ++ bit16

/-- First halfword of format VIII: sub-opcode, bit number, 111110b, reg1 (R128). -/
def fmtVIII (sub : BitVec 2) (bit3 : BitVec 3) (reg1 : Reg) : Half := sub ++ bit3 ++ 0b111110#6 ++ reg1

/-- Second halfword of formats XI and XII: reg3 and the fixed bits 26..16 (R131, R132). -/
def fmtXI (reg3 : Reg) (sub : BitVec 11) : Half := reg3 ++ sub

/-- Second halfword of MUL and MULU imm9 (R132). -/
def fmtXIImul (reg3 : Reg) (immHigh : BitVec 4) (sub : BitVec 2) : Half := reg3 ++ 0b01001#5 ++ immHigh ++ sub

/-- Second halfword of CMOV (R131, R132). -/
def fmtXIIcmov (reg3 : Reg) (sub : BitVec 6) (cond : BitVec 4) : Half := reg3 ++ sub ++ cond ++ 0#1

/-- First halfword of format XIII: 00000b, opcode, imm5, the list bit of r30 (R133, R142). -/
def fmtXIIIlow (op : BitVec 5) (imm5 : BitVec 5) (list12 : BitVec 12) : Half :=
  0#5 ++ op ++ imm5 ++ list12.extractLsb' 10 1

/-- The eleven list bits 31..21: r24, r25, r26, r27, r20, r21, r22, r23, r28, r29, r31 from the top (R142). -/
def listHigh (list12 : BitVec 12) : BitVec 11 :=
  BitVec.ofBoolListLE [list12.getLsbD 11, list12.getLsbD 9, list12.getLsbD 8, list12.getLsbD 3, list12.getLsbD 2,
    list12.getLsbD 1, list12.getLsbD 0, list12.getLsbD 7, list12.getLsbD 6, list12.getLsbD 5, list12.getLsbD 4]

/-- Second halfword of format XIII: the list bits and reg1 or the sub-opcode (R133). -/
def fmtXIIIhigh (list12 : BitVec 12) (sub : BitVec 5) : Half := listHigh list12 ++ sub

/-- Second halfword of the illegal pattern with bit 26 = 1 (R160). -/
def illegalHighHalf (a : BitVec 5) (b : BitVec 3) (c : BitVec 6) : Half := a ++ 1#1 ++ b ++ c ++ 0#1

/-- Second halfword of the illegal pattern with bits 26..23 = 0111b (R160). -/
def illegalSevenHalf (a : BitVec 5) (c : BitVec 6) : Half := a ++ 0b0111#4 ++ c ++ 0#1

/-- The halfwords of an instruction in fetch order (the patterns of spec/opcode_table.json). -/
def encode : Instr → List Half
  | .ldB d r1 r2 => [fmtI r2 0b111000#6 r1, d]
  | .ldBu d r1 r2 => [fmtV r2 (d.extractLsb' 0 1 ++ r1), dispHalf (d.extractLsb' 1 15) 1#1]
  | .ldH d r1 r2 => [fmtI r2 0b111001#6 r1, dispHalf (d.extractLsb' 1 15) 0#1]
  | .ldHu d r1 r2 => [fmtI r2 0b111111#6 r1, dispHalf (d.extractLsb' 1 15) 1#1]
  | .ldW d r1 r2 => [fmtI r2 0b111001#6 r1, dispHalf (d.extractLsb' 1 15) 1#1]
  | .sldB d r2 => [fmtIV r2 0b0110#4 d]
  | .sldBu d r2 => [fmtI r2 0b000011#6 (0#1 ++ d)]
  | .sldH d r2 => [fmtIV r2 0b1000#4 (d.extractLsb' 1 7)]
  | .sldHu d r2 => [fmtI r2 0b000011#6 (1#1 ++ d.extractLsb' 1 4)]
  | .sldW d r2 => [fmtIV r2 0b1010#4 (d.extractLsb' 2 6 ++ 0#1)]
  | .sstB r2 d => [fmtIV r2 0b0111#4 d]
  | .sstH r2 d => [fmtIV r2 0b1001#4 (d.extractLsb' 1 7)]
  | .sstW r2 d => [fmtIV r2 0b1010#4 (d.extractLsb' 2 6 ++ 1#1)]
  | .stB r2 d r1 => [fmtI r2 0b111010#6 r1, d]
  | .stH r2 d r1 => [fmtI r2 0b111011#6 r1, dispHalf (d.extractLsb' 1 15) 0#1]
  | .stW r2 d r1 => [fmtI r2 0b111011#6 r1, dispHalf (d.extractLsb' 1 15) 1#1]
  | .mulReg r1 r2 r3 => [fmtI r2 0b111111#6 r1, fmtXI r3 0b01000100000#11]
  | .mulImm9 i r2 r3 => [fmtI r2 0b111111#6 (i.extractLsb' 0 5), fmtXIImul r3 (i.extractLsb' 5 4) 0b00#2]
  | .muluReg r1 r2 r3 => [fmtI r2 0b111111#6 r1, fmtXI r3 0b01000100010#11]
  | .muluImm9 i r2 r3 => [fmtI r2 0b111111#6 (i.extractLsb' 0 5), fmtXIImul r3 (i.extractLsb' 5 4) 0b10#2]
  | .mulhReg r1 r2 => [fmtI r2 0b000111#6 r1]
  | .mulhImm5 i r2 => [fmtI r2 0b010111#6 i]
  | .mulhi i r1 r2 => [fmtI r2 0b110111#6 r1, i]
  | .addReg r1 r2 => [fmtI r2 0b001110#6 r1]
  | .addImm5 i r2 => [fmtI r2 0b010010#6 i]
  | .addi i r1 r2 => [fmtI r2 0b110000#6 r1, i]
  | .cmovReg c r1 r2 r3 => [fmtI r2 0b111111#6 r1, fmtXIIcmov r3 0b011001#6 c.toBits]
  | .cmovImm5 c i r2 r3 => [fmtI r2 0b111111#6 i, fmtXIIcmov r3 0b011000#6 c.toBits]
  | .cmpReg r1 r2 => [fmtI r2 0b001111#6 r1]
  | .cmpImm5 i r2 => [fmtI r2 0b010011#6 i]
  | .div r1 r2 r3 => [fmtI r2 0b111111#6 r1, fmtXI r3 0b01011000000#11]
  | .divhReg2 r1 r2 => [fmtI r2 0b000010#6 r1]
  | .divhReg3 r1 r2 r3 => [fmtI r2 0b111111#6 r1, fmtXI r3 0b01010000000#11]
  | .divhu r1 r2 r3 => [fmtI r2 0b111111#6 r1, fmtXI r3 0b01010000010#11]
  | .divu r1 r2 r3 => [fmtI r2 0b111111#6 r1, fmtXI r3 0b01011000010#11]
  | .movReg r1 r2 => [fmtI r2 0b000000#6 r1]
  | .movImm5 i r2 => [fmtI r2 0b010000#6 i]
  | .movImm32 i r1 => [fmtI 0#5 0b110001#6 r1, i.extractLsb' 0 16, i.extractLsb' 16 16]
  | .movea i r1 r2 => [fmtI r2 0b110001#6 r1, i]
  | .movhi i r1 r2 => [fmtI r2 0b110010#6 r1, i]
  | .sasf c r2 => [fmtI r2 0b111111#6 (0#1 ++ c.toBits), 0x0200#16]
  | .setf c r2 => [fmtI r2 0b111111#6 (0#1 ++ c.toBits), 0x0000#16]
  | .sub r1 r2 => [fmtI r2 0b001101#6 r1]
  | .subr r1 r2 => [fmtI r2 0b001100#6 r1]
  | .sataddReg r1 r2 => [fmtI r2 0b000110#6 r1]
  | .sataddImm5 i r2 => [fmtI r2 0b010001#6 i]
  | .satsub r1 r2 => [fmtI r2 0b000101#6 r1]
  | .satsubi i r1 r2 => [fmtI r2 0b110011#6 r1, i]
  | .satsubr r1 r2 => [fmtI r2 0b000100#6 r1]
  | .andReg r1 r2 => [fmtI r2 0b001010#6 r1]
  | .andi i r1 r2 => [fmtI r2 0b110110#6 r1, i]
  | .bsh r2 r3 => [fmtI r2 0b111111#6 0#5, fmtXI r3 0b01101000010#11]
  | .bsw r2 r3 => [fmtI r2 0b111111#6 0#5, fmtXI r3 0b01101000000#11]
  | .hsw r2 r3 => [fmtI r2 0b111111#6 0#5, fmtXI r3 0b01101000100#11]
  | .notReg r1 r2 => [fmtI r2 0b000001#6 r1]
  | .orReg r1 r2 => [fmtI r2 0b001000#6 r1]
  | .ori i r1 r2 => [fmtI r2 0b110100#6 r1, i]
  | .sarReg r1 r2 => [fmtI r2 0b111111#6 r1, 0x00A0#16]
  | .sarImm5 i r2 => [fmtI r2 0b010101#6 i]
  | .shlReg r1 r2 => [fmtI r2 0b111111#6 r1, 0x00C0#16]
  | .shlImm5 i r2 => [fmtI r2 0b010110#6 i]
  | .shrReg r1 r2 => [fmtI r2 0b111111#6 r1, 0x0080#16]
  | .shrImm5 i r2 => [fmtI r2 0b010100#6 i]
  | .sxb r1 => [fmtI 0#5 0b000101#6 r1]
  | .sxh r1 => [fmtI 0#5 0b000111#6 r1]
  | .tst r1 r2 => [fmtI r2 0b001011#6 r1]
  | .xorReg r1 r2 => [fmtI r2 0b001001#6 r1]
  | .xori i r1 r2 => [fmtI r2 0b110101#6 r1, i]
  | .zxb r1 => [fmtI 0#5 0b000100#6 r1]
  | .zxh r1 => [fmtI 0#5 0b000110#6 r1]
  | .bcond c d => [fmtIII d c.toBits]
  | .jarl d r2 => [fmtV r2 (d.extractLsb' 16 6), dispHalf (d.extractLsb' 1 15) 0#1]
  | .jmp r1 => [fmtI 0#5 0b000011#6 r1]
  | .jr d => [fmtV 0#5 (d.extractLsb' 16 6), dispHalf (d.extractLsb' 1 15) 0#1]
  | .set1Disp b d r1 => [fmtVIII 0b00#2 b r1, d]
  | .set1Reg r2 r1 => [fmtI r2 0b111111#6 r1, 0x00E0#16]
  | .not1Disp b d r1 => [fmtVIII 0b01#2 b r1, d]
  | .not1Reg r2 r1 => [fmtI r2 0b111111#6 r1, 0x00E2#16]
  | .clr1Disp b d r1 => [fmtVIII 0b10#2 b r1, d]
  | .clr1Reg r2 r1 => [fmtI r2 0b111111#6 r1, 0x00E4#16]
  | .tst1Disp b d r1 => [fmtVIII 0b11#2 b r1, d]
  | .tst1Reg r2 r1 => [fmtI r2 0b111111#6 r1, 0x00E6#16]
  | .callt i => [fmtI 0#5 (0b01000#5 ++ i.extractLsb' 5 1) (i.extractLsb' 0 5)]
  | .ctret => [0x07E0#16, 0x0144#16]
  | .di => [0x07E0#16, 0x0160#16]
  | .dispose i l => [fmtXIIIlow 0b11001#5 i l, fmtXIIIhigh l 0#5]
  | .disposeJump i l r1 => [fmtXIIIlow 0b11001#5 i l, fmtXIIIhigh l r1]
  | .ei => [0x87E0#16, 0x0160#16]
  | .halt => [0x07E0#16, 0x0120#16]
  | .ldsr r2 n => [fmtI n 0b111111#6 r2, 0x0020#16]
  | .nop => [0x0000#16]
  | .prepare l i => [fmtXIIIlow 0b11110#5 i l, fmtXIIIhigh l 0b00001#5]
  | .prepareSp l i => [fmtXIIIlow 0b11110#5 i l, fmtXIIIhigh l 0b00011#5]
  | .prepareImm16 l i m => [fmtXIIIlow 0b11110#5 i l, fmtXIIIhigh l 0b01011#5, m]
  | .prepareImm16Hi l i m => [fmtXIIIlow 0b11110#5 i l, fmtXIIIhigh l 0b10011#5, m]
  | .prepareImm32 l i m =>
    [fmtXIIIlow 0b11110#5 i l, fmtXIIIhigh l 0b11011#5, m.extractLsb' 0 16, m.extractLsb' 16 16]
  | .reti => [0x07E0#16, 0x0140#16]
  | .stsr n r2 => [fmtI r2 0b111111#6 n, 0x0040#16]
  | .switch r1 => [fmtI 0#5 0b000010#6 r1]
  | .trap v => [fmtI 0#5 0b111111#6 v, 0x0100#16]
  | .dbret => [0x07E0#16, 0x0146#16]
  | .dbtrap => [0xF840#16]
  | .illegalHigh a b c d e => [fmtI d 0b111111#6 e, illegalHighHalf a b c]
  | .illegalSeven a c d e => [fmtI d 0b111111#6 e, illegalSevenHalf a c]

/-- The bytes of a halfword in address order: the low byte at the lower address (spec/20_memory.md R84). -/
def bytesOfHalf (h : Half) : List Byte := [h.extractLsb' 0 8, h.extractLsb' 8 8]

/-- The bytes of an instruction in address order (R120). -/
def encodeBytes (i : Instr) : List Byte := (encode i).flatMap bytesOfHalf

/-! ### The host's view -/

/-- The eight bytes that hold the low `nbits` bits of `w`, lowest byte first; every bit above is 0. -/
def tableBytes (nbits w : Nat) : List Byte :=
  (List.range 8).map fun k => BitVec.ofNat 8 ((w % 2 ^ nbits) / 2 ^ (8 * k))

/-- The instruction the decoder reads from the table's word `w` of `nbits` bits. -/
def decodeTableWord (nbits w : Nat) : Option Instr := (decodeBytes (tableBytes nbits w)).toOption

end Sys2Proof
end

