-- ==== Sys2Proof/Machine/Fetch.lean ====
section
/-! DEFINITION. Fetching an instruction (spec/20_memory.md R83, R84, R106; U12 and U19 of
spec/93_implementation_defined.md), and the two register lists of spec/70_reset_and_hazards.md R515. -/

namespace Sys2Proof.Machine

/-- May the halfword at this program address be executed: the 16 MB area or the internal RAM area (R83). -/
def usable (c : Nat) : Bool := decide (c < 0x1000000) || (decide (0x3FF0000 ≤ c) && decide (c < 0x3FFF000))

/-- `Fetch16` at program address `c`; `k` is the place in the fetch of its first byte (R84; log 17). -/
def State.fetchHalf (s : State) (k c : Nat) : Half := s.cellRead (k + 1) (c + 1) ++ s.cellRead k c

/-- Up to `n` halfwords from program address `c` on, stopping where execution is prohibited. -/
def State.fetchHalves (s : State) (k c : Nat) : Nat → List Half
  | 0 => []
  | n + 1 => if usable c then s.fetchHalf k c :: s.fetchHalves (k + 2) (c + 2) n else []

/-- The first of the `n` cells from `c` on that is in a list. -/
def firstIn (cells : List Nat) (c : Nat) : Nat → Option Nat
  | 0 => none
  | n + 1 => if cells.contains c then some c else firstIn cells (c + 1) n

/-- What a fetch gives. -/
inductive Fetched where
  | instr (i : Instr) (s : State)
  | fault (f : Fault)
  | refused (r : Refusal)
deriving DecidableEq, Repr

/-- Fetch and decode the instruction at the pc (R84, spec/30_encoding.md R165). -/
def State.fetch (s : State) : Fetched :=
  let c := s.pc.toNat
  match decode (s.fetchHalves 0 c 4) with
  | .error .truncated => .fault (.prohibitedFetch (BitVec.ofNat 32 (c + 2 * (s.fetchHalves 0 c 4).length)))
  | .error why => .refused (.undefinedEncoding why)
  | .ok i =>
    match firstIn s.unsynced c i.length with
    | some x => .fault (.unsynchronisedFetch (BitVec.ofNat 32 x))
    | none => .instr i { s with draws := if s.product.plain c i.length then s.draws else s.draws + 8 }

/-- The destination of an SLD (spec/70_reset_and_hazards.md R515). -/
def sldDest : Instr → Option Reg
  | .sldB _ reg2 | .sldBu _ reg2 | .sldH _ reg2 | .sldHu _ reg2 | .sldW _ reg2 => some reg2
  | _ => none

/-- The registers that an instruction of list ii names as reg1 or reg2; none for any other instruction
(spec/70_reset_and_hazards.md R515; log 13). -/
def windowRegs : Instr → List Reg
  | .movReg reg1 reg2 | .notReg reg1 reg2 | .satsubr reg1 reg2 | .satsub reg1 reg2 | .sataddReg reg1 reg2
  | .orReg reg1 reg2 | .xorReg reg1 reg2 | .andReg reg1 reg2 | .tst reg1 reg2 | .subr reg1 reg2 | .sub reg1 reg2
  | .addReg reg1 reg2 | .cmpReg reg1 reg2 | .mulhReg reg1 reg2 => [reg1, reg2]
  | .sataddImm5 _ reg2 | .addImm5 _ reg2 | .cmpImm5 _ reg2 | .shrImm5 _ reg2 | .sarImm5 _ reg2
  | .shlImm5 _ reg2 => [reg2]
  | _ => []

/-! ### Placing an instruction (log 24) -/

/-- Where an instruction can be placed: the pc, if eight bytes from it on may be executed; else 0. -/
def State.codeCell (s : State) : Nat :=
  let c := s.pc.toNat
  if c % 2 = 0 ∧ usable c ∧ usable (c + 2) ∧ usable (c + 4) ∧ usable (c + 6) then c else 0

/-- The memory with bytes placed from a cell on. -/
def placeBytes : List Byte → Nat → Memory → Memory
  | [], _, m => m
  | b :: rest, c, m => placeBytes rest (c + 1) (m.write c b)

/-- The state that executes the eight bytes given at the very next step. -/
def State.placeCode (s : State) (bytes : List Byte) : State :=
  let c := s.codeCell
  { s with
    pc := BitVec.ofNat 32 c
    mem := placeBytes bytes c s.mem
    product := { s.product with areas := { base := c, size := 8, kind := .ram } :: s.product.areas }
    unsynced := s.unsynced.filter fun x => decide (x < c) || decide (c + 8 ≤ x)
    halted := false
    req := {}
    script := [] }

end Sys2Proof.Machine
end

