-- ==== Sys2Proof/Machine/Events.lean ====
section
/-! DEFINITION. What happens at a boundary (spec/60_exceptions.md R410 to R438, R445; spec/70_reset_and_hazards.md
R500, R515): reset, at a boundary or in the middle of an instruction, the acknowledgement of an interrupt request, HALT
mode. -/

namespace Sys2Proof.Machine

/-- An event taken at a boundary (R401). -/
inductive Event where
  | debugTrap
  | nmi2
  | nmi1
  | nmi0
  | maskable (code : Half)
deriving DecidableEq, Repr

/-- The maskable request after the INTC's action (R410; log 27). -/
def IntcAction.apply (a : IntcAction) (int : Option Half) : Option Half :=
  match a with
  | .keep => int
  | .withdraw => none
  | .present code => some code

/-- The requests after the environment's action; an NMI input the product lacks asserts nothing (R410, P2). -/
def Requests.latch (b : Boundary) (p : Product) (r : Requests) : Requests :=
  { nmi0 := r.nmi0 || (b.nmi0 && p.nmi0)
    nmi1 := r.nmi1 || (b.nmi1 && p.nmi1)
    nmi2 := r.nmi2 || (b.nmi2 && p.nmi2)
    debugTrap := r.debugTrap || b.debugTrap
    int := b.intc.apply r.int }

/-- The state after the environment's action at a boundary. -/
def State.latch (b : Boundary) (s : State) : State :=
  { s with script := s.script.tail, req := s.req.latch b s.product }

/-- The requests after an event has been acknowledged (D3). -/
def Requests.consume (e : Event) (r : Requests) : Requests :=
  match e with
  | .debugTrap => { r with debugTrap := false }
  | .nmi2 => { r with nmi2 := false }
  | .nmi1 => { r with nmi1 := false }
  | .nmi0 => { r with nmi0 := false }
  | .maskable _ => { r with int := none }

/-- Is an event acknowledgeable: NMI2 always, NMI1 and NMI0 with NP = 0, the maskable request with NP = 0 and ID = 0
(R412, R426; D5), the debug function trap always (R437, R438; D8). -/
def State.acknowledges (s : State) : Event → Bool
  | .debugTrap => s.req.debugTrap
  | .nmi2 => s.req.nmi2
  | .nmi1 => s.req.nmi1 && !flagOf s.psw .np
  | .nmi0 => s.req.nmi0 && !flagOf s.psw .np
  | .maskable code => decide (s.req.int = some code) && !flagOf s.psw .np && !flagOf s.psw .id

/-- The event a boundary can take, by the order of R415 (D4; log 8, log 10). -/
def State.pendingEvent (s : State) : Option Event :=
  if s.acknowledges .debugTrap then some .debugTrap
  else if s.acknowledges .nmi2 then some .nmi2
  else if s.acknowledges .nmi1 then some .nmi1
  else if s.acknowledges .nmi0 then some .nmi0
  else
    match s.req.int with
    | some code => if s.acknowledges (.maskable code) then some (.maskable code) else none
    | none => none

/-- The entry of an NMI with this exception code and handler (R401, R402, R425). -/
def nmiEntry (code : Half) (restorePC : Word) : Entry :=
  { pair := .fe, restorePC := restorePC, cause := .fecc code, setsNP := true, ep := false, handler := zext code }

/-- The entry of a maskable interrupt (R402, R430). -/
def maskableEntry (code : Half) (restorePC : Word) : Entry :=
  { pair := .ei, restorePC := restorePC, cause := .eicc code, setsNP := false, ep := false, handler := zext code }

/-- The entry of an event; the restore PC is the pc (R403, R438). -/
def State.eventEntry (s : State) (e : Event) : Entry :=
  match e with
  | .debugTrap => debugEntry s.pc
  | .nmi2 => nmiEntry 0x0030#16 s.pc
  | .nmi1 => nmiEntry 0x0020#16 s.pc
  | .nmi0 => nmiEntry 0x0010#16 s.pc
  | .maskable code => maskableEntry code s.pc

/-- ep after a DISPOSE that is abandoned: as the loads left it, or the value `ep` it had before them (log 15). -/
def State.settleEP (loaded : Bool) (ep : Word) (s : State) : State := if loaded then s else s.setReg regEP ep

/-- The state in which an interrupt leaves the instruction at the pc after its first `b.progress` accesses: PREPARE has
made that many stores, DISPOSE that many loads, SLD and CALLT a read that is discarded (spec/20_memory.md R94, R95;
spec/40_load_store.md R211; spec/47_special.md R330; log 15).
DESIGN CHOICE where the spec is silent: an instruction that cannot be fetched, one of whose bytes was stored to with no
control transfer since (spec/20_memory.md R106), or which is undefined or in a prohibited range, counts as not begun
whatever `b.progress` is, and the event is taken (log 12, log 15).
A DISPOSE whose list names r30 leaves ep as it was, as spec/47_special.md R341 and spec/60_exceptions.md R413 say, or
loaded, as its prefix of loads in R95 says. DESIGN CHOICE where the spec speaks two ways: the environment chooses which, by
`b.epLoaded` (log 15). -/
def State.abandon (b : Boundary) (s : State) : State :=
  if b.progress = 0 then s
  else
    match s.fetch with
    | .instr i t =>
      match i with
      | .prepare list12 _ | .prepareSp list12 _ | .prepareImm16 list12 _ _ | .prepareImm16Hi list12 _ _
      | .prepareImm32 list12 _ _ => t.pushList ((listRegs list12).take b.progress) (t.gpr regSP)
      | .dispose imm5 list12 | .disposeJump imm5 list12 _ =>
        (t.popList ((listRegs list12).reverse.take b.progress) (t.gpr regSP + frameSize imm5)).settleEP b.epLoaded
          (t.gpr regEP)
      | .sldB disp7 _ => t.afterRead 1 (t.epAddr disp7)
      | .sldBu disp4 _ => t.afterRead 1 (t.epAddr disp4)
      | .sldH disp8 _ => t.afterRead 2 (t.product.halfAddr (t.epAddr disp8))
      | .sldHu disp5 _ => t.afterRead 2 (t.product.halfAddr (t.epAddr disp5))
      | .sldW disp8 _ => t.afterRead 4 (t.product.wordAddr (t.epAddr disp8))
      | .callt imm6 => t.afterRead 2 (t.ctbp + (zext imm6 <<< 1))
      | _ => s
    | _ => s

/-- An event taken: the instruction at the pc is left, the entry is made, HALT mode ends, the request is consumed (R413,
R445; D3; at the boundary `b`; that the debug function trap ends HALT mode too: log 10), and the record for R515 is
emptied (log 13). -/
def State.enter (e : Event) (b : Boundary) (s : State) : State :=
  { (s.abandon b).takeException (s.eventEntry e) with
      halted := false, window := [], req := s.req.consume e }

/-! ### Reset (spec/70_reset_and_hazards.md R500) -/

/-- The addresses of the `n` bytes from `a` on. -/
def byteSpan (a : Word) (n : Nat) : List Word := (List.range n).map fun k => a + BitVec.ofNat 32 k

/-- The addresses of the bytes that PREPARE stores for a list of `n` registers, in the order of its stores
(spec/47_special.md R340, R341). -/
def State.frameAddrs (s : State) (n : Nat) : List Word :=
  (List.range n).flatMap fun j => byteSpan (stackAddr (s.gpr regSP - BitVec.ofNat 32 (4 * (j + 1)))) 4

/-- The addresses of the bytes that an instruction stores, in the order of its stores (spec/20_memory.md R86, R92). -/
def storeAddrs (i : Instr) (s : State) : List Word :=
  match i with
  | .stB _ disp16 reg1 => byteSpan (s.baseAddr reg1 disp16) 1
  | .stH _ disp16 reg1 => byteSpan (s.product.halfAddr (s.baseAddr reg1 disp16)) 2
  | .stW _ disp16 reg1 => byteSpan (s.product.wordAddr (s.baseAddr reg1 disp16)) 4
  | .sstB _ disp7 => byteSpan (s.epAddr disp7) 1
  | .sstH _ disp8 => byteSpan (s.product.halfAddr (s.epAddr disp8)) 2
  | .sstW _ disp8 => byteSpan (s.product.wordAddr (s.epAddr disp8)) 4
  | .set1Disp _ disp16 reg1 | .not1Disp _ disp16 reg1 | .clr1Disp _ disp16 reg1 => byteSpan (s.baseAddr reg1 disp16) 1
  | .set1Reg _ reg1 | .not1Reg _ reg1 | .clr1Reg _ reg1 => byteSpan (s.gpr reg1) 1
  | .prepare list12 _ | .prepareSp list12 _ | .prepareImm16 list12 _ _ | .prepareImm16Hi list12 _ _
  | .prepareImm32 list12 _ _ => s.frameAddrs (listRegs list12).length
  | _ => []

/-- One byte of an instruction that reset cuts short; `done` is the memory the whole instruction would have left
(log 11, log 6). -/
def State.leaveByte (done : Memory) (fate : ByteFate) (a : Word) (s : State) : State :=
  match fate with
  | .kept => s
  | .stored => s.writeByte a (done.read (s.product.cell a))
  | .spoiled => { s.writeByte a (Config.freeByte s.draws) with draws := s.draws + 1 }

/-- The bytes an instruction stores, each as its fate says; those past the end of the fates are kept. -/
def State.leaveBytes (done : Memory) : List ByteFate → List Word → State → State
  | fate :: fates, a :: rest, s => State.leaveBytes done fates rest (s.leaveByte done fate a)
  | _, _, s => s

/-- The state in which reset cuts short the instruction at the pc: some of its stores are made, and nothing else of it
outlives the reset (R500: "none of its pending effects may be assumed").
DESIGN CHOICE where the spec is silent: an instruction that cannot be fetched or has no meaning has stored nothing
(log 11). -/
def State.cutShort (fates : List ByteFate) (s : State) : State :=
  if fates = [] then s
  else
    match s.fetch with
    | .instr i t =>
      match exec i t with
      | .next u => ({ t with draws := u.draws } : State).leaveBytes u.mem fates (storeAddrs i t)
      | _ => s
    | _ => s

/-- The reset entry (spec/70_reset_and_hazards.md R500): the registers as after reset; memory and the environment
are not changed (log 11). -/
def State.resetEntry (s : State) : State :=
  { State.reset with mem := s.mem, product := s.product, req := s.req, script := s.script, draws := s.draws }

/-- Is the instruction at the pc an SLD with its destination among these registers (R206 to R210 of
spec/40_load_store.md). -/
def State.atSLDTo (regs : List Reg) (s : State) : Bool :=
  match s.fetch with
  | .instr i _ =>
    match sldDest i with
    | some reg2 => regs.contains reg2
    | none => false
  | _ => false

/-- Is the instruction at the pc one of list ii, with an SLD right behind it whose destination it names: an interrupt
here meets its decode operation (spec/70_reset_and_hazards.md R515). All of list ii are two bytes long and use no free
value. -/
def State.beforeSLD (s : State) : Bool :=
  match s.fetch with
  | .instr i t => (t.advance 2#32).atSLDTo (windowRegs i)
  | _ => false

/-- Would an interrupt at this boundary meet the conflict of spec/70_reset_and_hazards.md R515: the instruction of list
ii is at the pc and the SLD behind it, or the instruction of list ii has just been executed and the SLD is at the pc.
DESIGN CHOICE: the source speaks of the decode operation, and a pipeline may decode it on either side of the boundary,
so both are taken (log 13). DESIGN CHOICE where the spec is silent: where the instruction at the pc, or the one behind
it, cannot be fetched (spec/20_memory.md R106 among the reasons) there is no conflict, and the event is taken (log 12,
log 13). In HALT mode it is not asked (`State.react`, log 13). -/
def State.sldConflict (s : State) : Bool := s.beforeSLD || s.atSLDTo s.window

/-- What a step does. -/
inductive Action where
  /-- the step ends here: reset, an event entry, or HALT mode going on -/
  | become (s : State)
  /-- the instruction at the pc is executed -/
  | run (s : State)
  | refuse (r : Refusal)
deriving DecidableEq, Repr

/-- No event is taken: HALT mode goes on (R445), or the next instruction runs. -/
def State.proceed (s : State) : Action := if s.halted then .become s else .run s

/-- What the core does after the environment has acted (R413, R445; spec/70_reset_and_hazards.md R500, R515, U9). The
reset input comes before everything, at the boundary or in the middle of the instruction at the pc (log 11).
DESIGN CHOICE where the spec is silent: a debug function trap (R438, D8) goes before an interrupt request at the same
boundary, so an SLD conflict there (U9) is not refused but left behind, with `window` emptied (log 10, log 13); an
interrupt that the environment would defer still meets the conflict (log 13); an interrupt that ends HALT mode meets none,
also with an instruction of list ii at the pc and the SLD to its register behind it, though U9 speaks of any point where an
interrupt can be acknowledged: in HALT mode nothing is decoded, and no instruction before it is incomplete (log 13). -/
def State.react (b : Boundary) (s : State) : Action :=
  if b.reset then .become (if s.halted then s else s.cutShort b.cut).resetEntry
  else
    match s.pendingEvent with
    | none => s.proceed
    | some .debugTrap => .become (s.enter .debugTrap {})
    | some e =>
      if !s.halted && s.sldConflict then .refuse .sldInterruptConflict
      else if b.defer then s.proceed
      else .become (s.enter e (if s.halted then {} else b))

/-- One boundary: the environment acts, then the core reacts; past the script's end the environment does nothing
(log 9). -/
def State.boundary (s : State) : Action :=
  let b := s.script.headD {}
  (s.latch b).react b

/-- The outcome of an executed instruction: the window of R515 is set for the next boundary (log 13). -/
def finish (i : Instr) : Result → Result
  | .next t => .next { t with window := windowRegs i }
  | .fault f => .fault f
  | .refused r => .refused r

end Sys2Proof.Machine
end

