-- ==== Sys2Proof/Machine/Step.lean ====
section
/-! DEFINITION. One step of the machine (spec/92_eei_decisions.md D1): an instruction, an event entry, a boundary of
HALT mode, or a reset. -/

namespace Sys2Proof.Machine

/-- Fetch the instruction at the pc and execute it. -/
def State.runInstr (s : State) : Host.Outcome State Fault Refusal :=
  match s.fetch with
  | .instr i t => finish i (exec i t)
  | .fault f => .fault f
  | .refused r => .refused r

/-- One step. -/
def step (s : State) : Host.Outcome State Fault Refusal :=
  match s.boundary with
  | .become t => .next t
  | .run t => t.runInstr
  | .refuse r => .refused r

/-- The state whose very next step executes the table's word `w` of `nbits` bits (log 24). -/
def State.withFetchWord (s : State) (nbits w : Nat) : State := s.placeCode (tableBytes nbits w)

end Sys2Proof.Machine
end

