-- ==== Sys2Proof/Safety.lean ====
section
/-! DEFINITION. What statements about the machine are said with: the invariant of the state, what an instruction
leaves unchanged, and how a memory is read through its cells. -/

namespace Sys2Proof.Machine

/-- What holds of every state a run reaches: the bits that spec/10_state.md fixes to 0 are 0, and the memory has its
canonical form. -/
structure State.Inv (s : State) : Prop where
  /-- r0 holds 0 (R31) -/
  zero : s.regs[0] = 0#32
  /-- bits 31..26 and bit 0 of the pc are 0 (R33) -/
  pc : pcMask s.pc = s.pc
  /-- bits 31..26 of the saved PCs are 0 (R41, R43, R51, R53) -/
  eipc : savedPCBits s.eipc = s.eipc
  fepc : savedPCBits s.fepc = s.fepc
  ctpc : savedPCBits s.ctpc = s.ctpc
  dbpc : savedPCBits s.dbpc = s.dbpc
  /-- bits 31..8 of the PSW and of the saved PSWs are 0 (R42, R44, R46, R52, R54) -/
  psw : pswBits s.psw = s.psw
  eipsw : pswBits s.eipsw = s.eipsw
  fepsw : pswBits s.fepsw = s.fepsw
  ctpsw : pswBits s.ctpsw = s.ctpsw
  dbpsw : pswBits s.dbpsw = s.dbpsw
  /-- bits 31..26 and bit 0 of CTBP are 0 (R55) -/
  ctbp : ctbpBits s.ctbp = s.ctbp
  /-- bits 31..1 of DIR are 0 (R56) -/
  dir : s.dir &&& 1#32 = s.dir
  /-- the memory is in its canonical form -/
  mem : s.mem.wf = true

/-! ### Outcomes -/

/-- The instruction answers a next state, and the property holds of it. -/
def Runs (i : Instr) (s : State) (post : State → Prop) : Prop := ∃ t : State, exec i s = .next t ∧ post t

/-- The step answers a next state, and the property holds of it. -/
def Steps (s : State) (post : State → Prop) : Prop := ∃ t : State, step s = .next t ∧ post t

/-- The instruction has this encoding, halfword by halfword, and runs with this outcome. -/
def Means (i : Instr) (halves : List Half) (s : State) (post : State → Prop) : Prop := encode i = halves ∧ Runs i s post

/-- What a register reads after `v` was written to it: r0 still reads 0 (spec/10_state.md R31). -/
def written (r : Reg) (v : Word) : Word := if r = 0#5 then 0#32 else v

/-! ### What stays -/

/-- Every byte of memory reads as before. -/
def SameMemory (s t : State) : Prop := ∀ a : Word, t.byteAt a = s.byteAt a

/-- Does data address `b` share its byte with one of the `n` data addresses from `a` on. -/
def Product.within (p : Product) (a : Word) (n : Nat) (b : Word) : Prop :=
  ∃ k < n, p.cell b = p.cell (a + BitVec.ofNat 32 k)

/-- Every byte of memory outside the `n` bytes from `a` on reads as before. -/
def SameMemoryBut (a : Word) (n : Nat) (s t : State) : Prop :=
  ∀ b : Word, ¬ s.product.within a n b → t.byteAt b = s.byteAt b

/-- What an instruction leaves unchanged apart from memory and the pc: the general registers but those listed, the
flags but those listed and the reserved bits of the PSW, the other system registers but those whose numbers are
listed, HALT mode, and everything outside the core. -/
structure Frame (regs : List Reg) (flags : List Flag) (special : List (BitVec 5)) (s t : State) : Prop where
  regs : ∀ r : Reg, r ∉ regs → t.gpr r = s.gpr r
  flags : ∀ f : Flag, f ∉ flags → flagOf t.psw f = flagOf s.psw f
  reserved : ∀ k : Nat, 8 ≤ k → t.psw.getLsbD k = s.psw.getLsbD k
  special : ∀ n : BitVec 5, n ≠ 5#5 → n ∉ special → t.sysReg n = s.sysReg n
  halted : t.halted = s.halted
  product : t.product = s.product
  req : t.req = s.req
  script : t.script = s.script

/-- The frame of an instruction that may replace the whole PSW. -/
structure FrameButPSW (regs : List Reg) (special : List (BitVec 5)) (s t : State) : Prop where
  regs : ∀ r : Reg, r ∉ regs → t.gpr r = s.gpr r
  special : ∀ n : BitVec 5, n ≠ 5#5 → n ∉ special → t.sysReg n = s.sysReg n
  halted : t.halted = s.halted
  product : t.product = s.product
  req : t.req = s.req
  script : t.script = s.script

/-! ### Shapes of results -/

/-- The pc is at the next instruction, `len` bytes on (spec/10_state.md R34, R35). -/
def Advanced (len : Word) (s t : State) : Prop := t.pc = (s.pc + len) &&& 0x03FFFFFE#32

/-- One register written with `v`, and nothing else but the pc. -/
def WritesOnly (r : Reg) (v : Word) (len : Word) (s t : State) : Prop :=
  t.gpr r = written r v ∧ Advanced len s t ∧ Frame [r] [] [] s t ∧ SameMemory s t

/-- The four flags of an arithmetic result: CY as given, OV the exact signed result `e` being out of range, S and Z of
the stored result `r`. -/
def ArithFlags (cy : Prop) (e : Int) (r : Word) (t : State) : Prop :=
  (flagOf t.psw .cy = true ↔ cy) ∧ (flagOf t.psw .ov = true ↔ ¬ (-2 ^ 31 ≤ e ∧ e < 2 ^ 31)) ∧
    (flagOf t.psw .s = true ↔ r.toInt < 0) ∧ (flagOf t.psw .z = true ↔ r = 0#32)

/-- `a + b` with its flags (spec/42_arithmetic.md R240). -/
def SumFlags (a b : Word) (t : State) : Prop :=
  ArithFlags (2 ^ 32 ≤ a.toNat + b.toNat) (a.toInt + b.toInt) (BitVec.ofInt 32 (a.toInt + b.toInt)) t

/-- `a - b` with its flags (spec/42_arithmetic.md R240). -/
def DifferenceFlags (a b : Word) (t : State) : Prop :=
  ArithFlags (a.toNat < b.toNat) (a.toInt - b.toInt) (BitVec.ofInt 32 (a.toInt - b.toInt)) t

/-- A sum written to `r`. -/
def WritesSum (r : Reg) (a b : Word) (len : Word) (s t : State) : Prop :=
  t.gpr r = written r (BitVec.ofInt 32 (a.toInt + b.toInt)) ∧ SumFlags a b t ∧ Advanced len s t ∧
    Frame [r] [.cy, .ov, .s, .z] [] s t ∧ SameMemory s t

/-- A difference written to `r`. -/
def WritesDifference (r : Reg) (a b : Word) (len : Word) (s t : State) : Prop :=
  t.gpr r = written r (BitVec.ofInt 32 (a.toInt - b.toInt)) ∧ DifferenceFlags a b t ∧ Advanced len s t ∧
    Frame [r] [.cy, .ov, .s, .z] [] s t ∧ SameMemory s t

/-- A difference compared: only the flags. -/
def ComparesDifference (a b : Word) (len : Word) (s t : State) : Prop :=
  DifferenceFlags a b t ∧ Advanced len s t ∧ Frame [] [.cy, .ov, .s, .z] [] s t ∧ SameMemory s t

/-- An exact result brought into the range of a word (spec/43_saturated.md R270). -/
def clamp (e : Int) : Int := max (-2 ^ 31) (min (2 ^ 31 - 1) e)

/-- A saturated result written to `r`; SAT is set by an overflow and otherwise kept (R270, R271). -/
def WritesSaturated (r : Reg) (cy : Prop) (e : Int) (len : Word) (s t : State) : Prop :=
  t.gpr r = written r (BitVec.ofInt 32 (clamp e)) ∧
    ((flagOf t.psw .cy = true ↔ cy) ∧ (flagOf t.psw .ov = true ↔ clamp e ≠ e) ∧
      (flagOf t.psw .s = true ↔ clamp e < 0) ∧ (flagOf t.psw .z = true ↔ clamp e = 0)) ∧
    (flagOf t.psw .sat = true ↔ flagOf s.psw .sat = true ∨ clamp e ≠ e) ∧
    Advanced len s t ∧ Frame [r] [.sat, .cy, .ov, .s, .z] [] s t ∧ SameMemory s t

/-- The flags of a logical result: OV 0, S its top bit, Z the result being 0 (spec/44_logical.md R280). -/
def LogicFlagsOf (v : Word) (t : State) : Prop :=
  flagOf t.psw .ov = false ∧ flagOf t.psw .s = v.getLsbD 31 ∧ (flagOf t.psw .z = true ↔ v = 0#32)

/-- A logical result written to `r`. -/
def WritesLogic (r : Reg) (v : Word) (len : Word) (s t : State) : Prop :=
  t.gpr r = written r v ∧ LogicFlagsOf v t ∧ Advanced len s t ∧ Frame [r] [.ov, .s, .z] [] s t ∧ SameMemory s t

/-- A logical result with a carry written to `r` (shifts and swaps). -/
def WritesWithCarry (r : Reg) (v : Word) (cy z : Prop) (len : Word) (s t : State) : Prop :=
  t.gpr r = written r v ∧ (flagOf t.psw .cy = true ↔ cy) ∧ flagOf t.psw .ov = false ∧
    flagOf t.psw .s = v.getLsbD 31 ∧ (flagOf t.psw .z = true ↔ z) ∧ Advanced len s t ∧
    Frame [r] [.cy, .ov, .s, .z] [] s t ∧ SameMemory s t

/-- The two halves of an exact product: the high word wins where both go to one register
(spec/41_multiply.md R232). -/
def WritesProductOf (low high : Reg) (p : Int) (s t : State) : Prop :=
  t.gpr high = written high (BitVec.ofInt 32 (p / 2 ^ 32)) ∧ (low ≠ high → t.gpr low = written low (BitVec.ofInt 32 p)) ∧
    Advanced 4#32 s t ∧ Frame [low, high] [] [] s t ∧ SameMemory s t

/-- Quotient and remainder of a truncating signed division (spec/42_arithmetic.md R250). -/
def SignedDivision (a b q m : Word) : Prop :=
  a.toInt = q.toInt * b.toInt + m.toInt ∧ m.toInt.natAbs < b.toInt.natAbs ∧ (m ≠ 0#32 → (m.toInt < 0 ↔ a.toInt < 0))

/-- Quotient and remainder of an unsigned division (spec/42_arithmetic.md R250). -/
def UnsignedDivision (a b q m : Word) : Prop := a.toNat = q.toNat * b.toNat + m.toNat ∧ m.toNat < b.toNat

/-- A division's quotient written, then its remainder; OV as given, S and Z of the quotient. -/
def WritesDivision (quot rem : Reg) (q m : Word) (ov : Bool) (s t : State) : Prop :=
  t.gpr rem = written rem m ∧ (quot ≠ rem → t.gpr quot = written quot q) ∧ flagOf t.psw .ov = ov ∧
    flagOf t.psw .s = q.getLsbD 31 ∧ (flagOf t.psw .z = true ↔ q = 0#32) ∧ Advanced 4#32 s t ∧
    Frame [quot, rem] [.ov, .s, .z] [] s t ∧ SameMemory s t

/-- A quotient written, and no remainder. -/
def WritesQuotient (quot : Reg) (q : Word) (ov : Bool) (s t : State) : Prop :=
  t.gpr quot = written quot q ∧ flagOf t.psw .ov = ov ∧ flagOf t.psw .s = q.getLsbD 31 ∧
    (flagOf t.psw .z = true ↔ q = 0#32) ∧ Advanced 2#32 s t ∧ Frame [quot] [.ov, .s, .z] [] s t ∧ SameMemory s t

/-- What a division by zero leaves fixed: OV is 1, and only the destinations, OV, S and Z may change. -/
def DividedByZero (regs : List Reg) (len : Word) (s t : State) : Prop :=
  flagOf t.psw .ov = true ∧ Advanced len s t ∧ Frame regs [.ov, .s, .z] [] s t ∧ SameMemory s t

/-- What a read of `n` bytes at `a` can give: a plain byte is the byte held, any other is the environment's
(spec/20_memory.md R85). -/
def State.couldRead (s : State) (a : Word) (n : Nat) (bytes : Nat → Byte) : Prop :=
  ∀ k < n, (s.product.kindAt (s.product.cell (a + BitVec.ofNat 32 k))).isPlain = true →
    bytes k = s.byteAt (a + BitVec.ofNat 32 k)

/-- A halfword of bytes read, the first byte lowest (spec/20_memory.md R81). -/
def halfOf (bytes : Nat → Byte) : Half := bytes 1 ++ bytes 0

/-- A word of bytes read, the first byte lowest (spec/20_memory.md R81). -/
def wordOf (bytes : Nat → Byte) : Word := bytes 3 ++ bytes 2 ++ bytes 1 ++ bytes 0

/-- A load of `n` bytes at `a`: the register holds what `value` makes of the bytes read; nothing else but the pc
moves. -/
def Loads (r : Reg) (a : Word) (n : Nat) (value : (Nat → Byte) → Word) (len : Word) (s t : State) : Prop :=
  (∃ bytes, s.couldRead a n bytes ∧ t.gpr r = written r (value bytes)) ∧ Advanced len s t ∧ Frame [r] [] [] s t ∧
    SameMemory s t

/-- A store of the `n` low bytes of `v` from `a` on: plain RAM holds them, no other byte moves (that a byte which is not
plain RAM stays as held is the spec's decision D14, log 5). -/
def Stores (a : Word) (n : Nat) (v : Word) (len : Word) (s t : State) : Prop :=
  (∀ k < n, t.byteAt (a + BitVec.ofNat 32 k) =
      if s.product.kindAt (s.product.cell (a + BitVec.ofNat 32 k)) = .ram then v.extractLsb' (8 * k) 8
      else s.byteAt (a + BitVec.ofNat 32 k)) ∧
    SameMemoryBut a n s t ∧ Advanced len s t ∧ Frame [] [] [] s t

/-- A bit instruction at `a`, bit `n`: Z is the inverse of the bit as it was, and the byte is rewritten with the bit as
`new` says and the other seven as they were (spec/46_bit_manipulation.md R321). -/
def RewritesBit (a : Word) (n : Nat) (new : Bool → Bool) (s t : State) : Prop :=
  ((s.product.kindAt (s.product.cell a)).isPlain = true → flagOf t.psw .z = !(s.byteAt a).getLsbD n) ∧
    (s.product.kindAt (s.product.cell a) = .ram →
      ∀ k < 8, (t.byteAt a).getLsbD k = if k = n then new ((s.byteAt a).getLsbD n) else (s.byteAt a).getLsbD k) ∧
    SameMemoryBut a 1 s t ∧ Advanced 4#32 s t ∧ Frame [] [.z] [] s t

/-- A bit test at `a`, bit `n`: Z is the inverse of the bit (spec/46_bit_manipulation.md R325). -/
def TestsBit (a : Word) (n : Nat) (s t : State) : Prop :=
  ((s.product.kindAt (s.product.cell a)).isPlain = true → flagOf t.psw .z = !(s.byteAt a).getLsbD n) ∧
    Advanced 4#32 s t ∧ Frame [] [.z] [] s t ∧ SameMemory s t

/-- A jump: the pc is the target with bits 31..26 and bit 0 forced to 0 (spec/10_state.md R35). -/
def JumpsTo (target : Word) (t : State) : Prop := t.pc = target &&& 0x03FFFFFE#32

/-- What an event taken at a boundary leaves unchanged beside memory, the general registers and the requests: the flags
but those listed and the reserved bits of the PSW, the system registers but those whose numbers are listed, the
product; the script has moved on by one boundary. -/
structure EventFrame (flags : List Flag) (special : List (BitVec 5)) (s t : State) : Prop where
  flags : ∀ f : Flag, f ∉ flags → flagOf t.psw f = flagOf s.psw f
  reserved : ∀ k : Nat, 8 ≤ k → t.psw.getLsbD k = s.psw.getLsbD k
  special : ∀ n : BitVec 5, n ≠ 5#5 → n ∉ special → t.sysReg n = s.sysReg n
  product : t.product = s.product
  script : t.script = s.script.tail

/-- The entry at 00000060h: DBPC, DBPSW, the PSW with NP, EP and ID set, DM; ECR as it was
(spec/60_exceptions.md R435, R436, R437). -/
def EntersDebugHandler (restorePC : Word) (s t : State) : Prop :=
  t.dbpc = restorePC ∧ t.dbpsw = s.psw ∧ flagOf t.psw .np = true ∧ flagOf t.psw .ep = true ∧ flagOf t.psw .id = true ∧
    t.dir = s.dir ||| 1#32 ∧ t.ecr = s.ecr ∧ t.pc = 0x60#32 ∧ Frame [] [.np, .ep, .id] [18#5, 19#5, 21#5] s t ∧
    SameMemory s t

/-- An NMI's entry with this code and handler (spec/60_exceptions.md R425). -/
def EntersNMI (code : Half) (handler : Word) (s t : State) : Prop :=
  t.fepc = s.pc ∧ t.fepsw = s.psw ∧ t.ecr.extractLsb' 16 16 = code ∧ t.ecr.extractLsb' 0 16 = s.ecr.extractLsb' 0 16 ∧
    flagOf t.psw .np = true ∧ flagOf t.psw .id = true ∧ flagOf t.psw .ep = false ∧ t.pc = handler ∧ t.halted = false ∧
    EventFrame [.np, .id, .ep] [2#5, 3#5, 4#5] s t

/-- A maskable interrupt's entry with this code; the pc takes it as a handler address, bit 0 dropped (spec/10_state.md R35, spec/60_exceptions.md R430). -/
def EntersMaskable (code : Half) (s t : State) : Prop :=
  t.eipc = s.pc ∧ t.eipsw = s.psw ∧ t.ecr.extractLsb' 0 16 = code ∧
    t.ecr.extractLsb' 16 16 = s.ecr.extractLsb' 16 16 ∧ flagOf t.psw .id = true ∧ flagOf t.psw .ep = false ∧
    JumpsTo (code.setWidth 32) t ∧ t.halted = false ∧ EventFrame [.id, .ep] [0#5, 1#5, 4#5] s t

/-- What an interrupt leaves unchanged, whatever it abandons: sp, and where the instruction at the pc had made no
access, every general register and all of memory (spec/20_memory.md R94, R95). -/
def KeptByInterrupt (s t : State) : Prop :=
  t.gpr 3#5 = s.gpr 3#5 ∧ ((s.halted = true ∨ (s.script.headD {}).progress = 0) →
    (∀ r : Reg, t.gpr r = s.gpr r) ∧ SameMemory s t)

/-- What the stack holds after PREPARE stored these registers from `sp` down: the `j`-th register at the `j`-th word
below, in plain RAM (spec/47_special.md R340, R341; a byte that is not plain RAM stays as held: D14, log 5). -/
def Pushed (regs : List Reg) (s t : State) : Prop :=
  let sp := s.gpr 3#5
  let n := regs.length
  (∀ j, (h : j < n) → ∀ k < 4,
      let b := stackAddr (sp - BitVec.ofNat 32 (4 * (j + 1))) + BitVec.ofNat 32 k
      t.byteAt b =
        if s.product.kindAt (s.product.cell b) = .ram then (s.gpr regs[j]).extractLsb' (8 * k) 8
        else s.byteAt b) ∧
    SameMemoryBut (stackAddr (sp - BitVec.ofNat 32 (4 * n))) (4 * n) s t

/-- The second halfword of PREPARE and DISPOSE: the list bits of r24 to r27, r20 to r23, r28, r29 and r31 from the top,
then five bits more (spec/30_encoding.md R133, R142). -/
def listHalf (list12 : BitVec 12) (low : BitVec 5) : Half :=
  let bit := fun k => list12.extractLsb' k 1
  bit 4 ++ bit 5 ++ bit 6 ++ bit 7 ++ bit 0 ++ bit 1 ++ bit 2 ++ bit 3 ++ bit 8 ++ bit 9 ++ bit 11 ++ low

/-- sp after PREPARE: one word down for each register of the list, then imm5 words (spec/47_special.md R340). -/
def preparedStack (list12 : BitVec 12) (imm5 : BitVec 5) (s : State) : Word :=
  s.gpr 3#5 - BitVec.ofNat 32 (4 * (listRegs list12).length + 4 * imm5.toNat)

/-- What DISPOSE loads into its `j`-th register: the `j`-th word from the address above the frame on
(spec/47_special.md R341, R346). -/
def PoppedAt (imm5 : BitVec 5) (j : Nat) (r : Reg) (s t : State) : Prop :=
  ∃ bytes, s.couldRead (stackAddr (s.gpr 3#5 + BitVec.ofNat 32 (4 * imm5.toNat + 4 * j))) 4 bytes ∧
    t.gpr r = wordOf bytes

/-- What DISPOSE loaded into these registers (spec/47_special.md R341, R346). -/
def Popped (imm5 : BitVec 5) (regs : List Reg) (s t : State) : Prop :=
  ∀ j, (h : j < regs.length) → PoppedAt imm5 j regs[j] s t

/-- sp after DISPOSE (spec/47_special.md R346). -/
def disposedStack (imm5 : BitVec 5) (list12 : BitVec 12) (s : State) : Word :=
  s.gpr 3#5 + BitVec.ofNat 32 (4 * imm5.toNat + 4 * (listRegs list12).length)

/-! ### What stands at the pc and at the boundary -/

/-- The bytes of a well-formed instruction stand at the pc, in program memory that may be executed and that the fetch
unit sees (spec/20_memory.md R83, R84, R106). -/
def State.holdsCode (s : State) (i : Instr) : Prop :=
  i.wf = true ∧ s.pc.toNat % 2 = 0 ∧
    ∀ k < i.length,
      usable (s.pc.toNat + k) = true ∧ (s.product.kindAt (s.pc.toNat + k)).isPlain = true ∧
        s.pc.toNat + k ∉ s.unsynced ∧ (encodeBytes i)[k]? = some (s.mem.read (s.pc.toNat + k))

/-- The state with the pc at the instruction behind a 16-bit instruction at the pc (spec/10_state.md R34). -/
def State.behind (s : State) : State := { s with pc := (s.pc + 2#32) &&& 0x03FFFFFE#32 }

/-- The environment's action at the coming boundary. -/
def State.input (s : State) : Boundary := s.script.headD {}

/-- The state in which the core reacts at the coming boundary: the environment has acted. -/
def State.met (s : State) : State := s.latch s.input

/-- The core can take an interrupt at this boundary: no reset, no debug function trap before it, no deferral by the
environment, no SLD conflict (spec/60_exceptions.md R413, R415; spec/70_reset_and_hazards.md R500, R515). -/
def State.sampling (s : State) : Prop :=
  s.input.reset = false ∧ s.input.defer = false ∧ s.met.acknowledges .debugTrap = false ∧
    (s.halted = true ∨ s.met.sldConflict = false)

/-- The core executes the instruction at the pc at this boundary: no reset, no HALT mode, and either no event can be
taken or the environment defers the interrupt that could be (spec/60_exceptions.md R413, D2), with no SLD conflict. -/
def State.executing (s : State) : Prop :=
  s.input.reset = false ∧ s.halted = false ∧
    (s.met.pendingEvent = none ∨
      (s.input.defer = true ∧ s.met.acknowledges .debugTrap = false ∧ s.met.sldConflict = false))

/-- An interrupt is taken at this boundary from the instruction at the pc. -/
def State.interrupted (s : State) : Prop := s.sampling ∧ s.halted = false ∧ s.met.pendingEvent ≠ none

end Sys2Proof.Machine

namespace Sys2Proof

/-! ### Groups of instructions -/

/-- The instructions that store data or rewrite a byte (spec/20_memory.md R92). -/
def Instr.stores : Instr → Bool
  | .sstB _ _ | .sstH _ _ | .sstW _ _ | .stB _ _ _ | .stH _ _ _ | .stW _ _ _ => true
  | .set1Disp _ _ _ | .set1Reg _ _ | .not1Disp _ _ _ | .not1Reg _ _ | .clr1Disp _ _ _ | .clr1Reg _ _ => true
  | .prepare _ _ | .prepareSp _ _ | .prepareImm16 _ _ _ | .prepareImm16Hi _ _ _ | .prepareImm32 _ _ _ => true
  | _ => false

open Machine in
/-- The control transfers of spec/20_memory.md R106: a branch taken, a jump, an exception's entry, a return. -/
def Instr.transfers (s : State) : Instr → Bool
  | .bcond cccc _ => condHolds cccc s.psw
  | .jmp _ | .jr _ | .jarl _ _ | .callt _ | .switch _ | .disposeJump _ _ _ | .reti | .ctret | .dbret | .trap _ => true
  | .dbtrap | .illegalHigh _ _ _ _ _ | .illegalSeven _ _ _ _ => true
  | _ => false

/-- The saturated operations (spec/43_saturated.md). -/
def Instr.saturated : Instr → Bool
  | .sataddReg _ _ | .sataddImm5 _ _ | .satsub _ _ | .satsubi _ _ _ | .satsubr _ _ => true
  | _ => false

/-- Is it PREPARE with this list, in any of its five forms (spec/47_special.md R340 to R345). -/
def Instr.prepares (list12 : BitVec 12) (i : Instr) : Prop :=
  ∃ imm5 imm16 imm32, i ∈ [Instr.prepare list12 imm5, .prepareSp list12 imm5, .prepareImm16 list12 imm5 imm16,
    .prepareImm16Hi list12 imm5 imm16, .prepareImm32 list12 imm5 imm32]

/-- Is it DISPOSE with this frame and list, in either form (spec/47_special.md R346). -/
def Instr.disposes (imm5 : BitVec 5) (list12 : BitVec 12) (i : Instr) : Prop :=
  i = .dispose imm5 list12 ∨ ∃ reg1, i = .disposeJump imm5 list12 reg1

/-- The forms of list ii of spec/70_reset_and_hazards.md R515 that name reg1 and reg2. -/
def hazardPairs (reg1 reg2 : Reg) : List Instr :=
  [.movReg reg1 reg2, .notReg reg1 reg2, .satsubr reg1 reg2, .satsub reg1 reg2, .sataddReg reg1 reg2, .orReg reg1 reg2,
    .xorReg reg1 reg2, .andReg reg1 reg2, .tst reg1 reg2, .subr reg1 reg2, .sub reg1 reg2, .addReg reg1 reg2,
    .cmpReg reg1 reg2, .mulhReg reg1 reg2]

/-- The forms of list ii of spec/70_reset_and_hazards.md R515 that name reg2 alone. -/
def hazardImms (imm5 : BitVec 5) (reg2 : Reg) : List Instr :=
  [.sataddImm5 imm5 reg2, .addImm5 imm5 reg2, .cmpImm5 imm5 reg2, .shrImm5 imm5 reg2, .sarImm5 imm5 reg2,
    .shlImm5 imm5 reg2]

/-- Is it of list ii of spec/70_reset_and_hazards.md R515, and does it name this register. -/
def Instr.hazardNames (r : Reg) (i : Instr) : Prop :=
  ∃ reg1 reg2 imm5, (i ∈ hazardPairs reg1 reg2 ∧ (r = reg1 ∨ r = reg2)) ∨ (i ∈ hazardImms imm5 reg2 ∧ r = reg2)

/-- The five SLD forms with this destination (spec/40_load_store.md R206 to R210). -/
def Instr.shortLoadsTo (reg2 : Reg) (i : Instr) : Prop :=
  ∃ disp4 disp5 disp7 disp8, i ∈ [Instr.sldB disp7 reg2, .sldBu disp4 reg2, .sldH disp8 reg2, .sldHu disp5 reg2,
    .sldW disp8 reg2]

open Machine in
/-- What a store instruction stores: the address on the bus, the number of bytes, the register's value
(spec/40_load_store.md R214 to R219). -/
def Instr.storeOf (s : State) : Instr → Option (Word × Nat × Word)
  | .stB reg2 disp16 reg1 => some (s.baseAddr reg1 disp16, 1, s.gpr reg2)
  | .stH reg2 disp16 reg1 => some (s.product.halfAddr (s.baseAddr reg1 disp16), 2, s.gpr reg2)
  | .stW reg2 disp16 reg1 => some (s.product.wordAddr (s.baseAddr reg1 disp16), 4, s.gpr reg2)
  | .sstB reg2 disp7 => some (s.epAddr disp7, 1, s.gpr reg2)
  | .sstH reg2 disp8 => some (s.product.halfAddr (s.epAddr disp8), 2, s.gpr reg2)
  | .sstW reg2 disp8 => some (s.product.wordAddr (s.epAddr disp8), 4, s.gpr reg2)
  | _ => none

open Machine in
/-- What a load instruction reads: the address on the bus, the number of bytes, the destination, and what it makes of
the bytes (spec/40_load_store.md R201 to R210). -/
def Instr.loadOf (s : State) : Instr → Option (Word × Nat × Reg × ((Nat → Byte) → Word))
  | .ldB disp16 reg1 reg2 => some (s.baseAddr reg1 disp16, 1, reg2, fun b => (b 0).signExtend 32)
  | .ldBu disp16 reg1 reg2 => some (s.baseAddr reg1 disp16, 1, reg2, fun b => (b 0).setWidth 32)
  | .ldH disp16 reg1 reg2 => some (s.product.halfAddr (s.baseAddr reg1 disp16), 2, reg2, fun b => (halfOf b).signExtend 32)
  | .ldHu disp16 reg1 reg2 => some (s.product.halfAddr (s.baseAddr reg1 disp16), 2, reg2, fun b => (halfOf b).setWidth 32)
  | .ldW disp16 reg1 reg2 => some (s.product.wordAddr (s.baseAddr reg1 disp16), 4, reg2, wordOf)
  | .sldB disp7 reg2 => some (s.epAddr disp7, 1, reg2, fun b => (b 0).signExtend 32)
  | .sldBu disp4 reg2 => some (s.epAddr disp4, 1, reg2, fun b => (b 0).setWidth 32)
  | .sldH disp8 reg2 => some (s.product.halfAddr (s.epAddr disp8), 2, reg2, fun b => (halfOf b).signExtend 32)
  | .sldHu disp5 reg2 => some (s.product.halfAddr (s.epAddr disp5), 2, reg2, fun b => (halfOf b).setWidth 32)
  | .sldW disp8 reg2 => some (s.product.wordAddr (s.epAddr disp8), 4, reg2, wordOf)
  | _ => none

/-- The instructions that replace the whole PSW (spec/10_state.md R46, R48). -/
def Instr.replacesPSW : Instr → Bool
  | .ldsr _ regID => regID == 5#5
  | .reti | .ctret | .dbret => true
  | _ => false

/-- The instructions that enter the handler at 00000060h (spec/60_exceptions.md R435, R437). -/
def Instr.trapsToDebug : Instr → Bool
  | .dbtrap | .illegalHigh _ _ _ _ _ | .illegalSeven _ _ _ _ => true
  | _ => false

end Sys2Proof
end

