-- ==== Sys2Proof/Certificates/Slice0/Obligations.lean ====
section
/-! DEFINITION. The statements for the provers, from the numbered rules of spec/. `Means i halves s post` says that
`i` has this encoding and that `exec i s` answers a next state of which `post s` holds; `Runs` says the latter alone. -/

open Sys2Proof Sys2Proof.Machine

/-! ### Encoding (spec/30_encoding.md) -/

/-- Decoding an encoded well-formed instruction gives it back, whatever follows it. -/
def Obligations.DecodeInvertsEncode : Prop :=
  ∀ (i : Instr) (more : List Half), i.wf = true → decode (encode i ++ more) = .ok i

/-- What decodes is well formed, and its first halfwords are exactly its encoding. -/
def Obligations.EncodeInvertsDecode : Prop :=
  ∀ (halves : List Half) (i : Instr), decode halves = .ok i →
    i.wf = true ∧ halves.take (i.length / 2) = encode i

/-- Words that the instruction pages print decode to the instruction they stand for. -/
def Obligations.PrintedWordsDecode : Prop :=
  decode [0x31C5#16] = .ok (.addReg 5#5 6#5) ∧
  decode [0x37A5#16, 0x0003#16] = .ok (.ldBu 3#16 5#5 6#5) ∧
  decode [0x5514#16] = .ok (.sldW 0x28#8 10#5) ∧
  decode [0x3763#16, 0xFFFD#16] = .ok (.stW 6#5 (-4) 3#5) ∧
  decode [0x37FD#16, 0x3A7C#16] = .ok (.mulImm9 (-3) 6#5 7#5) ∧
  decode [0x0625#16, 0x5678#16, 0x1234#16] = .ok (.movImm32 0x12345678#32 5#5) ∧
  decode [0x3665#16, 0x8000#16] = .ok (.satsubi 0x8000#16 5#5 6#5) ∧
  decode [0x37E0#16, 0x3B42#16] = .ok (.bsh 6#5 7#5) ∧
  decode [0xFDEA#16] = .ok (.bcond .nz (-4)) ∧
  decode [0x07BF#16, 0xFFFE#16] = .ok (.jr (-2)) ∧
  decode [0x1FC5#16, 0x0002#16] = .ok (.set1Disp 3#3 2#16 5#5) ∧
  decode [0x2FE6#16, 0x0020#16] = .ok (.ldsr 6#5 5#5) ∧
  decode [0x0788#16, 0x0C21#16] = .ok (.prepare 0x803#12 4#5) ∧
  decode [0x07BF#16, 0xFFFB#16, 0x5678#16, 0x1234#16] = .ok (.prepareImm32 0xFFF#12 31#5 0x12345678#32) ∧
  decode [0x0648#16, 0x0C3F#16] = .ok (.disposeJump 4#5 0x803#12 31#5) ∧
  decode [0x07FF#16, 0x0100#16] = .ok (.trap 31#5) ∧
  decode [0xF840#16] = .ok .dbtrap

/-- The encodings that R161 calls undefined are no instruction, whatever follows them: the undefined cells of the opcode
map (R152, R155, R157, R158), the undefined cells of expansion 1 (R159), a SETF or SASF with bit 4 = 1 (R144), and in
expansion 1 every RFU bit or fixed bit that is not as the row has it (R134, R159). -/
def Obligations.UndefinedEncodingsDecodeToNothing : Prop :=
  (∀ (reg2 : Reg) (more : List Half), reg2 ≠ 31#5 →
    decode ((reg2 ++ 0b000010#6 ++ 0#5) :: more) = .error .divhReg1Zero) ∧
  (∀ (imm5 : BitVec 5) (more : List Half),
    decode ((0#5 ++ 0b010111#6 ++ imm5) :: more) = .error .mulhImm5Reg2Zero) ∧
  (∀ (reg1 : Reg) (imm16 : Half) (more : List Half),
    decode ((0#5 ++ 0b110111#6 ++ reg1) :: imm16 :: more) = .error .mulhiReg2Zero) ∧
  (∀ (low : BitVec 6) (high : BitVec 11) (form : BitVec 5) (more : List Half), form.getLsbD 0 = true →
    form ≠ 0b00001#5 → form.extractLsb' 0 3 ≠ 0b011#3 →
    decode ((0#5 ++ 0b11110#5 ++ low) :: (high ++ form) :: more) = .error .prepareForm) ∧
  (∀ (reg1 : Reg) (high : BitVec 15) (more : List Half),
    decode ((0#5 ++ 0b111111#6 ++ reg1) :: (high ++ 1#1) :: more) = .error .ldhuReg2Zero) ∧
  (∀ (reg1 reg2 high : BitVec 5) (low : BitVec 4) (more : List Half),
    let cell := fun (row : BitVec 4) (col : BitVec 2) =>
      decode ((reg2 ++ 0b111111#6 ++ reg1) :: (high ++ row ++ col ++ low ++ 0#1) :: more)
    -- cells that are undefined as a whole
    (∀ col, cell 0b0011#4 col = .error .blankCell) ∧
    cell 0b0000#4 0b11#2 = .error .blankCell ∧ cell 0b0101#4 0b01#2 = .error .blankCell ∧
    cell 0b0101#4 0b11#2 = .error .blankCell ∧ cell 0b0110#4 0b11#2 = .error .blankCell ∧
    -- cells that are undefined for some bits 18..17 or 15..11
    (reg1 = 0#5 → reg2 = 0#5 → high = 0#5 → low = 0b0001#4 → cell 0b0010#4 0b10#2 = .error .blankCell) ∧
    (¬ (reg1 = 0#5 ∧ (reg2 = 0b00000#5 ∨ reg2 = 0b10000#5)) → high = 0#5 → low = 0#4 →
      cell 0b0010#4 0b11#2 = .error .blankCell) ∧
    (reg1 = 0#5 → low = 0b0011#4 → cell 0b0110#4 0b10#2 = .error .blankCell) ∧
    -- SETF and SASF with bit 4 = 1
    (reg1.getLsbD 4 = true → high = 0#5 → low = 0#4 →
      cell 0b0000#4 0b00#2 = .error .condBit4 ∧ cell 0b0100#4 0b00#2 = .error .condBit4) ∧
    -- fixed bits of the second halfword
    (¬ (high = 0#5 ∧ low = 0#4) →
      (∀ p ∈ [(0b0000#4, 0b00#2), (0b0000#4, 0b01#2), (0b0000#4, 0b10#2), (0b0001#4, 0b00#2), (0b0001#4, 0b01#2),
        (0b0001#4, 0b10#2), (0b0010#4, 0b00#2), (0b0010#4, 0b01#2), (0b0010#4, 0b11#2), (0b0100#4, 0b00#2)],
        cell p.1 p.2 = .error .fixedBits)) ∧
    (¬ (high = 0#5 ∧ low.toNat < 4) →
      cell 0b0001#4 0b11#2 = .error .fixedBits ∧ cell 0b0010#4 0b10#2 = .error .fixedBits) ∧
    (2 ≤ low.toNat → cell 0b0100#4 0b01#2 = .error .fixedBits ∧ cell 0b0101#4 0b00#2 = .error .fixedBits ∧
      cell 0b0101#4 0b10#2 = .error .fixedBits) ∧
    (4 ≤ low.toNat → cell 0b0110#4 0b10#2 = .error .fixedBits) ∧
    -- fixed bits of the first halfword: TRAP, HALT, RETI to DBRET, the swaps
    (reg2 ≠ 0#5 → cell 0b0010#4 0b00#2 = .error .fixedBits) ∧
    (¬ (reg1 = 0#5 ∧ reg2 = 0#5) →
      cell 0b0010#4 0b01#2 = .error .fixedBits ∧ cell 0b0010#4 0b10#2 = .error .fixedBits) ∧
    (reg1 ≠ 0#5 → cell 0b0110#4 0b10#2 = .error .fixedBits))

/-- Every word of the illegal pattern decodes to an instruction of its own: bits 10..5 = 111111b, bit 16 = 0, and
bit 26 = 1 or bits 25..23 = 111b; the other bits are don't-care. -/
def Obligations.IllegalPatternDecodes : Prop :=
  ∀ (h h1 : Half) (more : List Half), h.extractLsb' 5 6 = 0b111111#6 → h1.getLsbD 0 = false →
    (h1.getLsbD 10 = true ∨ h1.extractLsb' 7 3 = 0b111#3) →
    ∃ i : Instr, decode (h :: h1 :: more) = .ok i ∧ encode i = [h, h1] ∧
      (i.trapsToDebug = true ∧ i ≠ .dbtrap)

/-! ### The step, the invariant, reset -/

/-- A step whose boundary takes nothing, because nothing is acknowledgeable or because the environment defers the interrupt
that is (the spec's decision D2), runs the instruction that stands at the pc, in the state the environment has left; a
next state differs from the instruction's own only in `window`, the model's record for R515. -/
def Obligations.StepRunsTheDecodedInstruction : Prop :=
  ∀ (s : State) (i : Instr), s.holdsCode i → s.executing →
    (∀ t, exec i s.met = .next t → step s = .next { t with window := windowRegs i }) ∧
    (∀ r, exec i s.met = .refused r → step s = .refused r)

/-- A step at a word that is no instruction is refused, with the reason. It faults where the next halfword the
instruction needs, its first or a later one, lies in a range that may not be executed from, and at an instruction one of
whose bytes was stored to with no control transfer since. That these two are faults, where R83 (U12) and R106 (U19, D13)
say refuse, is the model's choice of form (log 16, log 12). `unsynced` is how the model knows (log 12): an executed
instruction puts the cells of the bytes it stores there and takes none away, unless it is a control transfer; a transfer
or an event's entry drops exactly the cells of plain RAM, those that an abandoned PREPARE has just stored among them. -/
def Obligations.StepStopsAtUnusableCode : Prop :=
  (∀ s : State, s.executing →
    (∀ why, why ≠ .truncated → decode (s.met.fetchHalves 0 s.pc.toNat 4) = .error why →
      step s = .refused (.undefinedEncoding why)) ∧
    (∀ k < 4, (∀ j < k, usable (s.pc.toNat + 2 * j) = true) → usable (s.pc.toNat + 2 * k) = false →
      decode (s.met.fetchHalves 0 s.pc.toNat k) = .error .truncated →
      step s = .fault (.prohibitedFetch (s.pc + BitVec.ofNat 32 (2 * k)))) ∧
    (∀ i k, decode (s.met.fetchHalves 0 s.pc.toNat 4) = .ok i → k < i.length → s.pc.toNat + k ∈ s.unsynced →
      ∃ a, step s = .fault (.unsynchronisedFetch a))) ∧
  (∀ (i : Instr) (s t : State), exec i s = .next t →
    (i.transfers s = false →
      ∀ c : Nat, c ∈ t.unsynced ↔ c ∈ s.unsynced ∨ ∃ a ∈ storeAddrs i s, s.product.cell a = c) ∧
    (i.transfers s = true → ∀ c : Nat, c ∈ t.unsynced ↔ c ∈ s.unsynced ∧ s.product.kindAt c ≠ .ram)) ∧
  (∀ (s : State) (e : Event), s.input.reset = false → s.met.pendingEvent = some e → (e = .debugTrap ∨ s.sampling) →
    Steps s fun t => ∀ c : Nat, c ∈ t.unsynced ↔ s.product.kindAt c ≠ .ram ∧
      (c ∈ s.unsynced ∨ e ≠ .debugTrap ∧ s.halted = false ∧
        ∃ i u list12, s.met.fetch = .instr i u ∧ i.prepares list12 ∧
          ∃ a ∈ (storeAddrs i u).take (4 * s.input.progress), s.product.cell a = c))

/-- Every step keeps the invariant: r0 holds 0, the pc is even and within 26 bits, the fixed bits of the system
registers are 0, the memory is in its canonical form. -/
def Obligations.StepKeepsInvariant : Prop :=
  ∀ s t : State, s.Inv → step s = .next t → t.Inv

/-- The state after reset meets the invariant. -/
def Obligations.ResetMeetsInvariant : Prop := State.reset.Inv

/-- The reset input makes any step the reset sequence: pc 0, PSW 20h, ECR, DIR and r0 0, the fixed bits of the other
system registers 0, HALT mode off; the pending requests are not changed, and nothing is left of the record of stored code.
Where the instruction at the pc had not begun (`cut` is empty, the core is in HALT mode) memory is not changed. Where
reset comes in the middle of it, every byte it does not store to is as before, and each byte it stores to is as before, as
it would have left it or, where the bus cycle itself is cut, open, as `cut` says byte by byte. That memory outlives reset,
and that an instruction that cannot be fetched or has no meaning has stored nothing, are the model's choices
(log 11). -/
def Obligations.ResetInputResets : Prop :=
  ∀ s : State, s.input.reset = true →
    Steps s fun t =>
      t.pc = 0#32 ∧ t.psw = 0x20#32 ∧ t.ecr = 0#32 ∧ t.dir = 0#32 ∧ t.gpr 0#5 = 0#32 ∧ t.halted = false ∧
      (savedPCBits t.eipc = t.eipc ∧ savedPCBits t.fepc = t.fepc ∧ savedPCBits t.ctpc = t.ctpc ∧
        savedPCBits t.dbpc = t.dbpc) ∧
      (pswBits t.eipsw = t.eipsw ∧ pswBits t.fepsw = t.fepsw ∧ pswBits t.ctpsw = t.ctpsw ∧
        pswBits t.dbpsw = t.dbpsw) ∧
      ctbpBits t.ctbp = t.ctbp ∧ t.req = s.met.req ∧ t.unsynced = [] ∧
      ((s.halted = true ∨ s.input.cut = [] ∨ ∀ i u v, s.met.fetch = .instr i u → exec i u ≠ .next v) →
        SameMemory s t) ∧
      (∀ i u v, s.halted = false → s.mem.wf = true → s.met.fetch = .instr i u → exec i u = .next v →
        (∀ b : Word, (∀ a ∈ storeAddrs i u, s.product.cell b ≠ s.product.cell a) → t.byteAt b = s.byteAt b) ∧
        (∀ (k : Nat) (a : Word), (storeAddrs i u)[k]? = some a →
          (s.product.kindAt (s.product.cell a) ≠ .ram ∨ s.input.cut[k]? = none ∨ s.input.cut[k]? = some .kept →
            t.byteAt a = s.byteAt a) ∧
          (s.input.cut[k]? = some .stored → t.byteAt a = v.byteAt a)))

/-- `DataAddr`: a misaligned address is used as it is or its low bits are masked to 0, as the product has it; the
stack addresses are always masked. -/
def Obligations.DataAddressesAlign : Prop :=
  ∀ (p : Product) (a : Word),
    (p.misalign = true → p.halfAddr a = a ∧ p.wordAddr a = a) ∧
    (p.misalign = false → (p.halfAddr a).toNat = a.toNat / 2 * 2 ∧ (p.wordAddr a).toNat = a.toNat / 4 * 4) ∧
    (stackAddr a).toNat = a.toNat / 4 * 4

/-! ### Load and store (spec/40_load_store.md) -/

/-- LD.B, LD.BU, LD.H, LD.HU, LD.W. -/
def Obligations.LongLoadsRead : Prop :=
  ∀ (s : State) (disp16 : BitVec 16) (reg1 reg2 : Reg),
    let a := s.gpr reg1 + disp16.signExtend 32
    let low := disp16.extractLsb' 0 1
    let high := disp16.extractLsb' 1 15
    Means (.ldB disp16 reg1 reg2) [reg2 ++ 0b111000#6 ++ reg1, disp16] s
      (Loads reg2 a 1 (fun b => (b 0).signExtend 32) 4#32 s) ∧
    Means (.ldBu disp16 reg1 reg2) [reg2 ++ 0b11110#5 ++ low ++ reg1, high ++ 1#1] s
      (Loads reg2 a 1 (fun b => (b 0).setWidth 32) 4#32 s) ∧
    Means (.ldH disp16 reg1 reg2) [reg2 ++ 0b111001#6 ++ reg1, high ++ 0#1] s
      (Loads reg2 (s.product.halfAddr a) 2 (fun b => (halfOf b).signExtend 32) 4#32 s) ∧
    Means (.ldHu disp16 reg1 reg2) [reg2 ++ 0b111111#6 ++ reg1, high ++ 1#1] s
      (Loads reg2 (s.product.halfAddr a) 2 (fun b => (halfOf b).setWidth 32) 4#32 s) ∧
    Means (.ldW disp16 reg1 reg2) [reg2 ++ 0b111001#6 ++ reg1, high ++ 1#1] s
      (Loads reg2 (s.product.wordAddr a) 4 wordOf 4#32 s)

/-- SLD.B, SLD.BU, SLD.H, SLD.HU, SLD.W. -/
def Obligations.ShortLoadsRead : Prop :=
  ∀ (s : State) (disp4 : BitVec 4) (disp5 : BitVec 5) (disp7 : BitVec 7) (disp8 : BitVec 8) (reg2 : Reg),
    let ep := s.gpr 30#5
    Means (.sldB disp7 reg2) [reg2 ++ 0b0110#4 ++ disp7] s
      (Loads reg2 (ep + disp7.setWidth 32) 1 (fun b => (b 0).signExtend 32) 2#32 s) ∧
    Means (.sldBu disp4 reg2) [reg2 ++ 0b0000110#7 ++ disp4] s
      (Loads reg2 (ep + disp4.setWidth 32) 1 (fun b => (b 0).setWidth 32) 2#32 s) ∧
    Means (.sldH disp8 reg2) [reg2 ++ 0b1000#4 ++ disp8.extractLsb' 1 7] s
      (Loads reg2 (s.product.halfAddr (ep + disp8.setWidth 32)) 2 (fun b => (halfOf b).signExtend 32) 2#32 s) ∧
    Means (.sldHu disp5 reg2) [reg2 ++ 0b0000111#7 ++ disp5.extractLsb' 1 4] s
      (Loads reg2 (s.product.halfAddr (ep + disp5.setWidth 32)) 2 (fun b => (halfOf b).setWidth 32) 2#32 s) ∧
    Means (.sldW disp8 reg2) [reg2 ++ 0b1010#4 ++ disp8.extractLsb' 2 6 ++ 0#1] s
      (Loads reg2 (s.product.wordAddr (ep + disp8.setWidth 32)) 4 wordOf 2#32 s)

/-- ST.B, ST.H, ST.W. That a byte which is not plain RAM stays as held is the spec's decision D14 (log 5). -/
def Obligations.LongStoresWrite : Prop :=
  ∀ (s : State) (disp16 : BitVec 16) (reg1 reg2 : Reg), s.mem.wf = true →
    let a := s.gpr reg1 + disp16.signExtend 32
    let high := disp16.extractLsb' 1 15
    Means (.stB reg2 disp16 reg1) [reg2 ++ 0b111010#6 ++ reg1, disp16] s (Stores a 1 (s.gpr reg2) 4#32 s) ∧
    Means (.stH reg2 disp16 reg1) [reg2 ++ 0b111011#6 ++ reg1, high ++ 0#1] s
      (Stores (s.product.halfAddr a) 2 (s.gpr reg2) 4#32 s) ∧
    Means (.stW reg2 disp16 reg1) [reg2 ++ 0b111011#6 ++ reg1, high ++ 1#1] s
      (Stores (s.product.wordAddr a) 4 (s.gpr reg2) 4#32 s)

/-- SST.B, SST.H, SST.W. That a byte which is not plain RAM stays as held is the spec's decision D14 (log 5). -/
def Obligations.ShortStoresWrite : Prop :=
  ∀ (s : State) (disp7 : BitVec 7) (disp8 : BitVec 8) (reg2 : Reg), s.mem.wf = true →
    let ep := s.gpr 30#5
    Means (.sstB reg2 disp7) [reg2 ++ 0b0111#4 ++ disp7] s
      (Stores (ep + disp7.setWidth 32) 1 (s.gpr reg2) 2#32 s) ∧
    Means (.sstH reg2 disp8) [reg2 ++ 0b1001#4 ++ disp8.extractLsb' 1 7] s
      (Stores (s.product.halfAddr (ep + disp8.setWidth 32)) 2 (s.gpr reg2) 2#32 s) ∧
    Means (.sstW reg2 disp8) [reg2 ++ 0b1010#4 ++ disp8.extractLsb' 2 6 ++ 1#1] s
      (Stores (s.product.wordAddr (ep + disp8.setWidth 32)) 4 (s.gpr reg2) 2#32 s)

/-! ### Multiply (spec/41_multiply.md) -/

/-- MUL and MULU: the exact 64-bit product, low word to reg2, high word to reg3, which wins where they are one. That MUL is
signed is the spec's own choice from general knowledge (R231, N20, G2; log 8). That
MULU's prohibited register combination is MUL's is the spec's own inference (R234, N21; log 19). -/
def Obligations.WordProductsAreExact : Prop :=
  ∀ (s : State) (reg1 reg2 reg3 : Reg) (imm9 : BitVec 9),
    let immLow := imm9.extractLsb' 0 5
    let immHigh := imm9.extractLsb' 5 4
    (¬ (reg1 = reg3 ∧ reg1 ≠ reg2 ∧ reg1 ≠ 0#5 ∧ reg3 ≠ 0#5) →
      Means (.mulReg reg1 reg2 reg3) [reg2 ++ 0b111111#6 ++ reg1, reg3 ++ 0b01000100000#11] s
        (WritesProductOf reg2 reg3 ((s.gpr reg2).toInt * (s.gpr reg1).toInt) s) ∧
      Means (.muluReg reg1 reg2 reg3) [reg2 ++ 0b111111#6 ++ reg1, reg3 ++ 0b01000100010#11] s
        (WritesProductOf reg2 reg3 ((s.gpr reg2).toNat * (s.gpr reg1).toNat) s)) ∧
    Means (.mulImm9 imm9 reg2 reg3) [reg2 ++ 0b111111#6 ++ immLow, reg3 ++ 0b01001#5 ++ immHigh ++ 0b00#2] s
      (WritesProductOf reg2 reg3 ((s.gpr reg2).toInt * imm9.toInt) s) ∧
    Means (.muluImm9 imm9 reg2 reg3) [reg2 ++ 0b111111#6 ++ immLow, reg3 ++ 0b01001#5 ++ immHigh ++ 0b10#2] s
      (WritesProductOf reg2 reg3 ((s.gpr reg2).toNat * imm9.toNat) s)

/-- MUL with the register combination that R232 prohibits has no meaning, and neither has MULU with the same one. For
MULU the source's four conditions are lost: that they are MUL's is the spec's own inference from R232 (R234, N21; log 19),
as the three signs of unequal in MUL's are restored from the sense. -/
def Obligations.ProhibitedProductsAreRefused : Prop :=
  ∀ (s : State) (reg1 reg2 reg3 : Reg), reg1 = reg3 → reg1 ≠ reg2 → reg1 ≠ 0#5 → reg3 ≠ 0#5 →
    exec (.mulReg reg1 reg2 reg3) s = .refused .prohibitedRegisters ∧
    exec (.muluReg reg1 reg2 reg3) s = .refused .prohibitedRegisters

/-- MULH and MULHI: the exact product of two halfwords. That both are signed is the spec's own choice from general
knowledge (R231, N20, G2; log 8), and it shows in the result. -/
def Obligations.HalfwordProductsAreExact : Prop :=
  ∀ (s : State) (reg1 reg2 : Reg) (imm5 : BitVec 5) (imm16 : BitVec 16),
    let low := fun r : Reg => ((s.gpr r).extractLsb' 0 16).toInt
    Means (.mulhReg reg1 reg2) [reg2 ++ 0b000111#6 ++ reg1] s
      (WritesOnly reg2 (BitVec.ofInt 32 (low reg2 * low reg1)) 2#32 s) ∧
    Means (.mulhImm5 imm5 reg2) [reg2 ++ 0b010111#6 ++ imm5] s
      (WritesOnly reg2 (BitVec.ofInt 32 (low reg2 * imm5.toInt)) 2#32 s) ∧
    Means (.mulhi imm16 reg1 reg2) [reg2 ++ 0b110111#6 ++ reg1, imm16] s
      (WritesOnly reg2 (BitVec.ofInt 32 (low reg1 * imm16.toInt)) 4#32 s)

/-! ### Arithmetic (spec/42_arithmetic.md) -/

/-- ADD and ADDI: the sum and its four flags. That CY is the unsigned carry and OV the signed overflow is the spec's own
reading from general knowledge (R240, G3; log 8). -/
def Obligations.AdditionsWriteSumAndFlags : Prop :=
  ∀ (s : State) (reg1 reg2 : Reg) (imm5 : BitVec 5) (imm16 : BitVec 16),
    Means (.addReg reg1 reg2) [reg2 ++ 0b001110#6 ++ reg1] s
      (WritesSum reg2 (s.gpr reg2) (s.gpr reg1) 2#32 s) ∧
    Means (.addImm5 imm5 reg2) [reg2 ++ 0b010010#6 ++ imm5] s
      (WritesSum reg2 (s.gpr reg2) (imm5.signExtend 32) 2#32 s) ∧
    Means (.addi imm16 reg1 reg2) [reg2 ++ 0b110000#6 ++ reg1, imm16] s
      (WritesSum reg2 (s.gpr reg1) (imm16.signExtend 32) 4#32 s)

/-- SUB, SUBR and CMP: the difference and its four flags; CMP stores nothing. That CY is the unsigned borrow and OV the
signed overflow is the spec's own reading from general knowledge (R240, G3; log 8). -/
def Obligations.SubtractionsWriteDifferenceAndFlags : Prop :=
  ∀ (s : State) (reg1 reg2 : Reg) (imm5 : BitVec 5),
    Means (.sub reg1 reg2) [reg2 ++ 0b001101#6 ++ reg1] s
      (WritesDifference reg2 (s.gpr reg2) (s.gpr reg1) 2#32 s) ∧
    Means (.subr reg1 reg2) [reg2 ++ 0b001100#6 ++ reg1] s
      (WritesDifference reg2 (s.gpr reg1) (s.gpr reg2) 2#32 s) ∧
    Means (.cmpReg reg1 reg2) [reg2 ++ 0b001111#6 ++ reg1] s
      (ComparesDifference (s.gpr reg2) (s.gpr reg1) 2#32 s) ∧
    Means (.cmpImm5 imm5 reg2) [reg2 ++ 0b010011#6 ++ imm5] s
      (ComparesDifference (s.gpr reg2) (imm5.signExtend 32) 2#32 s)

/-- The sixteen condition codes and what each tests of a PSW (Table 5-5 of R145); that the PSW is the one before the
instruction is ConditionsSelectResults and BranchesGoToTheirTargets. -/
def Obligations.ConditionCodesTestFlags : Prop :=
  ∀ psw : Word,
    let sat := flagOf psw .sat = true
    let cy := flagOf psw .cy = true
    let ov := flagOf psw .ov = true
    let n := flagOf psw .s = true
    let z := flagOf psw .z = true
    let tests := fun (c : Cond) (code : BitVec 4) (p : Prop) => c.toBits = code ∧ (condHolds c psw = true ↔ p)
    tests .v 0b0000#4 ov ∧ tests .nv 0b1000#4 (¬ ov) ∧ tests .l 0b0001#4 cy ∧ tests .nl 0b1001#4 (¬ cy) ∧
    tests .z 0b0010#4 z ∧ tests .nz 0b1010#4 (¬ z) ∧ tests .nh 0b0011#4 (cy ∨ z) ∧ tests .h 0b1011#4 (¬ (cy ∨ z)) ∧
    tests .s 0b0100#4 n ∧ tests .ns 0b1100#4 (¬ n) ∧ tests .t 0b0101#4 True ∧ tests .sa 0b1101#4 sat ∧
    tests .lt 0b0110#4 (¬ (n ↔ ov)) ∧ tests .ge 0b1110#4 (n ↔ ov) ∧
    tests .le 0b0111#4 (¬ (n ↔ ov) ∨ z) ∧ tests .gt 0b1111#4 ((n ↔ ov) ∧ ¬ z)

/-- CMOV, SASF and SETF choose by the condition on the PSW as it is before the instruction. -/
def Obligations.ConditionsSelectResults : Prop :=
  ∀ (s : State) (c : Cond) (reg1 reg2 reg3 : Reg) (imm5 : BitVec 5),
    let bit := if condHolds c s.psw then 1#32 else 0#32
    Means (.cmovReg c reg1 reg2 reg3) [reg2 ++ 0b111111#6 ++ reg1, reg3 ++ 0b011001#6 ++ c.toBits ++ 0#1] s
      (WritesOnly reg3 (if condHolds c s.psw then s.gpr reg1 else s.gpr reg2) 4#32 s) ∧
    Means (.cmovImm5 c imm5 reg2 reg3) [reg2 ++ 0b111111#6 ++ imm5, reg3 ++ 0b011000#6 ++ c.toBits ++ 0#1] s
      (WritesOnly reg3 (if condHolds c s.psw then imm5.signExtend 32 else s.gpr reg2) 4#32 s) ∧
    Means (.sasf c reg2) [reg2 ++ 0b1111110#7 ++ c.toBits, 0x0200#16] s
      (WritesOnly reg2 (BitVec.ofNat 32 (2 * (s.gpr reg2).toNat + bit.toNat)) 4#32 s) ∧
    Means (.setf c reg2) [reg2 ++ 0b1111110#7 ++ c.toBits, 0x0000#16] s (WritesOnly reg2 bit 4#32 s)

/-- MOV, MOVEA and MOVHI write one register and no flag. -/
def Obligations.MovesWriteOneRegister : Prop :=
  ∀ (s : State) (reg1 reg2 : Reg) (imm5 : BitVec 5) (imm16 : BitVec 16) (imm32 : BitVec 32),
    Means (.movReg reg1 reg2) [reg2 ++ 0b000000#6 ++ reg1] s (WritesOnly reg2 (s.gpr reg1) 2#32 s) ∧
    Means (.movImm5 imm5 reg2) [reg2 ++ 0b010000#6 ++ imm5] s (WritesOnly reg2 (imm5.signExtend 32) 2#32 s) ∧
    Means (.movImm32 imm32 reg1) [0b00000110001#11 ++ reg1, imm32.extractLsb' 0 16, imm32.extractLsb' 16 16] s
      (WritesOnly reg1 imm32 6#32 s) ∧
    Means (.movea imm16 reg1 reg2) [reg2 ++ 0b110001#6 ++ reg1, imm16] s
      (WritesOnly reg2 (s.gpr reg1 + imm16.signExtend 32) 4#32 s) ∧
    Means (.movhi imm16 reg1 reg2) [reg2 ++ 0b110010#6 ++ reg1, imm16] s
      (WritesOnly reg2 (BitVec.ofNat 32 ((s.gpr reg1).toNat + 65536 * imm16.toNat)) 4#32 s)

/-- DIV and DIVH by anything but 0, and not 80000000h by -1: quotient truncated toward zero, remainder with the
dividend's sign (the spec's own decision D20, from general knowledge G4; log 8). That S and Z are those of the quotient (N23)
and that DIVH's halfword divisor is signed (R252) are the spec's own inferences. -/
def Obligations.SignedDivisionsDivide : Prop :=
  ∀ (s : State) (reg1 reg2 reg3 : Reg),
    let a := s.gpr reg2
    let b := s.gpr reg1
    let h : Word := ((s.gpr reg1).extractLsb' 0 16).signExtend 32
    (b ≠ 0#32 → ¬ (a = 0x80000000#32 ∧ b = 0xFFFFFFFF#32) →
      Means (.div reg1 reg2 reg3) [reg2 ++ 0b111111#6 ++ reg1, reg3 ++ 0b01011000000#11] s
        fun t => ∃ q m, SignedDivision a b q m ∧ WritesDivision reg2 reg3 q m false s t) ∧
    (h ≠ 0#32 → ¬ (a = 0x80000000#32 ∧ h = 0xFFFFFFFF#32) →
      (Means (.divhReg3 reg1 reg2 reg3) [reg2 ++ 0b111111#6 ++ reg1, reg3 ++ 0b01010000000#11] s
        fun t => ∃ q m, SignedDivision a h q m ∧ WritesDivision reg2 reg3 q m false s t) ∧
      (Means (.divhReg2 reg1 reg2) [reg2 ++ 0b000010#6 ++ reg1] s
        fun t => ∃ q m, SignedDivision a h q m ∧ WritesQuotient reg2 q false s t))

/-- DIVU and DIVHU by anything but 0. That S and Z are those of the quotient is the spec's own inference (R250, N23). -/
def Obligations.UnsignedDivisionsDivide : Prop :=
  ∀ (s : State) (reg1 reg2 reg3 : Reg),
    let a := s.gpr reg2
    let b := s.gpr reg1
    let h : Word := ((s.gpr reg1).extractLsb' 0 16).setWidth 32
    (b ≠ 0#32 → Means (.divu reg1 reg2 reg3) [reg2 ++ 0b111111#6 ++ reg1, reg3 ++ 0b01011000010#11] s
      fun t => ∃ q m, UnsignedDivision a b q m ∧ WritesDivision reg2 reg3 q m false s t) ∧
    (h ≠ 0#32 → Means (.divhu reg1 reg2 reg3) [reg2 ++ 0b111111#6 ++ reg1, reg3 ++ 0b01010000010#11] s
      fun t => ∃ q m, UnsignedDivision a h q m ∧ WritesDivision reg2 reg3 q m false s t)

/-- 80000000h divided by -1: quotient 80000000h with OV; the remainder 0 is the spec's own decision D21 (log 8). -/
def Obligations.DivisionOverflows : Prop :=
  ∀ (s : State) (reg1 reg2 reg3 : Reg), s.gpr reg2 = 0x80000000#32 →
    (s.gpr reg1 = 0xFFFFFFFF#32 →
      Runs (.div reg1 reg2 reg3) s (WritesDivision reg2 reg3 0x80000000#32 0#32 true s)) ∧
    ((s.gpr reg1).extractLsb' 0 16 = 0xFFFF#16 →
      Runs (.divhReg3 reg1 reg2 reg3) s (WritesDivision reg2 reg3 0x80000000#32 0#32 true s) ∧
      Runs (.divhReg2 reg1 reg2) s (WritesQuotient reg2 0x80000000#32 true s))

/-- Division by 0 runs: OV is 1, the destinations, S and Z hold values nothing constrains (log 7), all else stays. -/
def Obligations.DivisionsByZeroRun : Prop :=
  ∀ (s : State) (reg1 reg2 reg3 : Reg), (s.gpr reg1).extractLsb' 0 16 = 0#16 →
    Runs (.divhReg2 reg1 reg2) s (DividedByZero [reg2] 2#32 s) ∧
    Runs (.divhReg3 reg1 reg2 reg3) s (DividedByZero [reg2, reg3] 4#32 s) ∧
    Runs (.divhu reg1 reg2 reg3) s (DividedByZero [reg2, reg3] 4#32 s) ∧
    (s.gpr reg1 = 0#32 →
      Runs (.div reg1 reg2 reg3) s (DividedByZero [reg2, reg3] 4#32 s) ∧
      Runs (.divu reg1 reg2 reg3) s (DividedByZero [reg2, reg3] 4#32 s))

/-! ### Saturated operations (spec/43_saturated.md) -/

/-- SATADD, SATSUB, SATSUBI and SATSUBR: the exact result brought into range, its flags, and SAT set by an overflow
and otherwise kept. -/
def Obligations.SaturatedResultsAreClamped : Prop :=
  ∀ (s : State) (reg1 reg2 : Reg) (imm5 : BitVec 5) (imm16 : BitVec 16),
    let x := s.gpr reg1
    let y := s.gpr reg2
    let i : Word := imm5.signExtend 32
    let w : Word := imm16.signExtend 32
    Means (.sataddReg reg1 reg2) [reg2 ++ 0b000110#6 ++ reg1] s
      (WritesSaturated reg2 (2 ^ 32 ≤ y.toNat + x.toNat) (y.toInt + x.toInt) 2#32 s) ∧
    Means (.sataddImm5 imm5 reg2) [reg2 ++ 0b010001#6 ++ imm5] s
      (WritesSaturated reg2 (2 ^ 32 ≤ y.toNat + i.toNat) (y.toInt + imm5.toInt) 2#32 s) ∧
    Means (.satsub reg1 reg2) [reg2 ++ 0b000101#6 ++ reg1] s
      (WritesSaturated reg2 (y.toNat < x.toNat) (y.toInt - x.toInt) 2#32 s) ∧
    Means (.satsubi imm16 reg1 reg2) [reg2 ++ 0b110011#6 ++ reg1, imm16] s
      (WritesSaturated reg2 (x.toNat < w.toNat) (x.toInt - imm16.toInt) 4#32 s) ∧
    Means (.satsubr reg1 reg2) [reg2 ++ 0b000100#6 ++ reg1] s
      (WritesSaturated reg2 (x.toNat < y.toNat) (x.toInt - y.toInt) 2#32 s)

/-! ### Logical operations (spec/44_logical.md) -/

/-- AND, ANDI, NOT, OR, ORI, TST, XOR, XORI; TST stores nothing. -/
def Obligations.LogicWritesResultAndFlags : Prop :=
  ∀ (s : State) (reg1 reg2 : Reg) (imm16 : BitVec 16),
    let x := s.gpr reg1
    let y := s.gpr reg2
    let i : Word := imm16.setWidth 32
    Means (.andReg reg1 reg2) [reg2 ++ 0b001010#6 ++ reg1] s (WritesLogic reg2 (y &&& x) 2#32 s) ∧
    Means (.andi imm16 reg1 reg2) [reg2 ++ 0b110110#6 ++ reg1, imm16] s (WritesLogic reg2 (x &&& i) 4#32 s) ∧
    Means (.notReg reg1 reg2) [reg2 ++ 0b000001#6 ++ reg1] s (WritesLogic reg2 (~~~x) 2#32 s) ∧
    Means (.orReg reg1 reg2) [reg2 ++ 0b001000#6 ++ reg1] s (WritesLogic reg2 (y ||| x) 2#32 s) ∧
    Means (.ori imm16 reg1 reg2) [reg2 ++ 0b110100#6 ++ reg1, imm16] s (WritesLogic reg2 (x ||| i) 4#32 s) ∧
    Means (.tst reg1 reg2) [reg2 ++ 0b001011#6 ++ reg1] s (fun t =>
      LogicFlagsOf (y &&& x) t ∧ Advanced 2#32 s t ∧ Frame [] [.ov, .s, .z] [] s t ∧ SameMemory s t) ∧
    Means (.xorReg reg1 reg2) [reg2 ++ 0b001001#6 ++ reg1] s (WritesLogic reg2 (y ^^^ x) 2#32 s) ∧
    Means (.xori imm16 reg1 reg2) [reg2 ++ 0b110101#6 ++ reg1, imm16] s (WritesLogic reg2 (x ^^^ i) 4#32 s)

/-- BSH, BSW and HSW: the bytes or halfwords exchanged, and the unusual CY and Z. -/
def Obligations.SwapsExchangeBytes : Prop :=
  ∀ (s : State) (reg2 reg3 : Reg),
    let byte := fun (w : Word) (k : Nat) => w.extractLsb' (8 * k) 8
    let a := s.gpr reg2
    let bshd : Word := byte a 2 ++ byte a 3 ++ byte a 0 ++ byte a 1
    let bswd : Word := byte a 0 ++ byte a 1 ++ byte a 2 ++ byte a 3
    let hswd : Word := byte a 1 ++ byte a 0 ++ byte a 3 ++ byte a 2
    Means (.bsh reg2 reg3) [reg2 ++ 0b11111100000#11, reg3 ++ 0b01101000010#11] s
      (WritesWithCarry reg3 bshd (∃ k < 2, byte bshd k = 0#8) (bshd.extractLsb' 0 16 = 0#16) 4#32 s) ∧
    Means (.bsw reg2 reg3) [reg2 ++ 0b11111100000#11, reg3 ++ 0b01101000000#11] s
      (WritesWithCarry reg3 bswd (∃ k < 4, byte bswd k = 0#8) (bswd = 0#32) 4#32 s) ∧
    Means (.hsw reg2 reg3) [reg2 ++ 0b11111100000#11, reg3 ++ 0b01101000100#11] s
      (WritesWithCarry reg3 hswd (∃ k < 2, hswd.extractLsb' (16 * k) 16 = 0#16) (hswd = 0#32) 4#32 s)

/-- SAR, SHL and SHR: multiplication or floor division by a power of two, CY the last bit moved out. -/
def Obligations.ShiftsScaleByPowersOfTwo : Prop :=
  ∀ (s : State) (reg1 reg2 : Reg) (imm5 : BitVec 5),
    let a := s.gpr reg2
    let c := (s.gpr reg1).toNat % 32
    let sar := fun n : Nat => WritesWithCarry reg2 (BitVec.ofInt 32 (a.toInt / 2 ^ n))
      (0 < n ∧ a.toInt / 2 ^ (n - 1) % 2 = 1) (a.toInt / 2 ^ n = 0)
    let shl := fun n : Nat => WritesWithCarry reg2 (BitVec.ofNat 32 (a.toNat * 2 ^ n))
      (a.toNat * 2 ^ n / 2 ^ 32 % 2 = 1) (a.toNat * 2 ^ n % 2 ^ 32 = 0)
    let shr := fun n : Nat => WritesWithCarry reg2 (BitVec.ofNat 32 (a.toNat / 2 ^ n))
      (0 < n ∧ a.toNat / 2 ^ (n - 1) % 2 = 1) (a.toNat / 2 ^ n = 0)
    Means (.sarReg reg1 reg2) [reg2 ++ 0b111111#6 ++ reg1, 0x00A0#16] s (sar c 4#32 s) ∧
    Means (.sarImm5 imm5 reg2) [reg2 ++ 0b010101#6 ++ imm5] s (sar imm5.toNat 2#32 s) ∧
    Means (.shlReg reg1 reg2) [reg2 ++ 0b111111#6 ++ reg1, 0x00C0#16] s (shl c 4#32 s) ∧
    Means (.shlImm5 imm5 reg2) [reg2 ++ 0b010110#6 ++ imm5] s (shl imm5.toNat 2#32 s) ∧
    Means (.shrReg reg1 reg2) [reg2 ++ 0b111111#6 ++ reg1, 0x0080#16] s (shr c 4#32 s) ∧
    Means (.shrImm5 imm5 reg2) [reg2 ++ 0b010100#6 ++ imm5] s (shr imm5.toNat 2#32 s)

/-- SXB, SXH, ZXB and ZXH extend the low part of a register in place. -/
def Obligations.ExtensionsExtendInPlace : Prop :=
  ∀ (s : State) (reg1 : Reg),
    let a := s.gpr reg1
    Means (.sxb reg1) [0b00000000101#11 ++ reg1] s (WritesOnly reg1 (BitVec.ofInt 32 (a.extractLsb' 0 8).toInt) 2#32 s) ∧
    Means (.sxh reg1) [0b00000000111#11 ++ reg1] s (WritesOnly reg1 (BitVec.ofInt 32 (a.extractLsb' 0 16).toInt) 2#32 s) ∧
    Means (.zxb reg1) [0b00000000100#11 ++ reg1] s (WritesOnly reg1 (BitVec.ofNat 32 (a.toNat % 2 ^ 8)) 2#32 s) ∧
    Means (.zxh reg1) [0b00000000110#11 ++ reg1] s (WritesOnly reg1 (BitVec.ofNat 32 (a.toNat % 2 ^ 16)) 2#32 s)

/-! ### Branches (spec/45_branch.md) -/

/-- Bcond, JMP and JR go to their targets, and change nothing but the pc. -/
def Obligations.BranchesGoToTheirTargets : Prop :=
  ∀ (s : State) (c : Cond) (disp9 : BitVec 9) (disp22 : BitVec 22) (reg1 : Reg),
    Means (.bcond c disp9) [disp9.extractLsb' 4 5 ++ 0b1011#4 ++ disp9.extractLsb' 1 3 ++ c.toBits] s (fun t =>
      (if condHolds c s.psw then JumpsTo (s.pc + disp9.signExtend 32) t else Advanced 2#32 s t) ∧
        Frame [] [] [] s t ∧ SameMemory s t) ∧
    Means (.jmp reg1) [0b00000000011#11 ++ reg1] s (fun t =>
      JumpsTo (s.gpr reg1) t ∧ Frame [] [] [] s t ∧ SameMemory s t) ∧
    Means (.jr disp22) [0b0000011110#10 ++ disp22.extractLsb' 16 6, disp22.extractLsb' 1 15 ++ 0#1] s (fun t =>
      JumpsTo (s.pc + disp22.signExtend 32) t ∧ Frame [] [] [] s t ∧ SameMemory s t)

/-- JARL saves the address of the next instruction, masked as a pc is (the spec's own decision D22, log 8), and jumps
relative to its own address. -/
def Obligations.JarlLinksAndJumps : Prop :=
  ∀ (s : State) (disp22 : BitVec 22) (reg2 : Reg),
    Means (.jarl disp22 reg2) [reg2 ++ 0b11110#5 ++ disp22.extractLsb' 16 6, disp22.extractLsb' 1 15 ++ 0#1] s (fun t =>
      t.gpr reg2 = written reg2 ((s.pc + 4#32) &&& 0x03FFFFFE#32) ∧ JumpsTo (s.pc + disp22.signExtend 32) t ∧
        Frame [reg2] [] [] s t ∧ SameMemory s t)

/-! ### Bit manipulation (spec/46_bit_manipulation.md) -/

/-- SET1, NOT1 and CLR1 rewrite one byte and set Z to the inverse of the bit as it was. -/
def Obligations.BitInstructionsRewriteOneBit : Prop :=
  ∀ (s : State) (bit3 : BitVec 3) (disp16 : BitVec 16) (reg1 reg2 : Reg), s.mem.wf = true →
    let a := s.gpr reg1 + disp16.signExtend 32
    let n := (s.gpr reg2).toNat % 8
    Means (.set1Disp bit3 disp16 reg1) [0b00#2 ++ bit3 ++ 0b111110#6 ++ reg1, disp16] s
      (RewritesBit a bit3.toNat (fun _ => true) s) ∧
    Means (.set1Reg reg2 reg1) [reg2 ++ 0b111111#6 ++ reg1, 0x00E0#16] s
      (RewritesBit (s.gpr reg1) n (fun _ => true) s) ∧
    Means (.not1Disp bit3 disp16 reg1) [0b01#2 ++ bit3 ++ 0b111110#6 ++ reg1, disp16] s
      (RewritesBit a bit3.toNat (fun old => !old) s) ∧
    Means (.not1Reg reg2 reg1) [reg2 ++ 0b111111#6 ++ reg1, 0x00E2#16] s
      (RewritesBit (s.gpr reg1) n (fun old => !old) s) ∧
    Means (.clr1Disp bit3 disp16 reg1) [0b10#2 ++ bit3 ++ 0b111110#6 ++ reg1, disp16] s
      (RewritesBit a bit3.toNat (fun _ => false) s) ∧
    Means (.clr1Reg reg2 reg1) [reg2 ++ 0b111111#6 ++ reg1, 0x00E4#16] s
      (RewritesBit (s.gpr reg1) n (fun _ => false) s)

/-- TST1 sets Z to the inverse of the bit and writes nothing. -/
def Obligations.BitTestsSetZ : Prop :=
  ∀ (s : State) (bit3 : BitVec 3) (disp16 : BitVec 16) (reg1 reg2 : Reg),
    Means (.tst1Disp bit3 disp16 reg1) [0b11#2 ++ bit3 ++ 0b111110#6 ++ reg1, disp16] s
      (TestsBit (s.gpr reg1 + disp16.signExtend 32) bit3.toNat s) ∧
    Means (.tst1Reg reg2 reg1) [reg2 ++ 0b111111#6 ++ reg1, 0x00E6#16] s
      (TestsBit (s.gpr reg1) ((s.gpr reg2).toNat % 8) s)

/-! ### Special instructions (spec/47_special.md) -/

/-- CALLT saves the next pc and the PSW and jumps to CTBP plus the unsigned table entry; SWITCH jumps by the signed
halfword count in the table that follows it. -/
def Obligations.TableJumpsReadTheirTables : Prop :=
  ∀ (s : State) (imm6 : BitVec 6) (reg1 : Reg),
    let base := (s.pc + 2#32) &&& 0x03FFFFFE#32
    Means (.callt imm6) [0b0000001000#10 ++ imm6] s (fun t =>
      t.ctpc = base ∧ t.ctpsw = s.psw ∧
        (∃ bytes, s.couldRead (s.ctbp + BitVec.ofNat 32 (2 * imm6.toNat)) 2 bytes ∧
          JumpsTo (s.ctbp + (halfOf bytes).setWidth 32) t) ∧
        Frame [] [] [16#5, 17#5] s t ∧ SameMemory s t) ∧
    Means (.switch reg1) [0b00000000010#11 ++ reg1] s (fun t =>
      (∃ bytes, s.couldRead (base + BitVec.ofNat 32 (2 * (s.gpr reg1).toNat)) 2 bytes ∧
          JumpsTo (base + BitVec.ofInt 32 (2 * (halfOf bytes).toInt)) t) ∧
        Frame [] [] [] s t ∧ SameMemory s t)

/-- CTRET, and DBRET, which also clears DM: the saved pc and the low eight bits of the saved PSW. -/
def Obligations.CalltAndDebugReturnsRestore : Prop :=
  ∀ s : State,
    Means .ctret [0x07E0#16, 0x0144#16] s (fun t =>
      JumpsTo s.ctpc t ∧ t.psw = s.ctpsw &&& 0xFF#32 ∧ FrameButPSW [] [] s t ∧ SameMemory s t) ∧
    Means .dbret [0x07E0#16, 0x0146#16] s (fun t =>
      JumpsTo s.dbpc t ∧ t.psw = s.dbpsw &&& 0xFF#32 ∧ t.dir = s.dir &&& 0xFFFFFFFE#32 ∧
        FrameButPSW [] [21#5] s t ∧ SameMemory s t)

/-- RETI: EP selects before NP. From the NMI pair it returns only where FECC names NMI0 or no NMI that cannot be
returned from; that FECC tells this is the model's choice (log 14). -/
def Obligations.RetiSelectsTheSavedPair : Prop :=
  ∀ s : State, encode .reti = [0x07E0#16, 0x0140#16] ∧
    ((flagOf s.psw .ep = true ∨ flagOf s.psw .np = false) → Runs .reti s (fun t =>
      JumpsTo s.eipc t ∧ t.psw = s.eipsw &&& 0xFF#32 ∧ FrameButPSW [] [] s t ∧ SameMemory s t)) ∧
    (flagOf s.psw .ep = false → flagOf s.psw .np = true → s.ecr.extractLsb' 16 16 ≠ 0x0020#16 →
      s.ecr.extractLsb' 16 16 ≠ 0x0030#16 → Runs .reti s (fun t =>
        JumpsTo s.fepc t ∧ t.psw = s.fepsw &&& 0xFF#32 ∧ FrameButPSW [] [] s t ∧ SameMemory s t))

/-- RETI from the NMI1 or NMI2 handler is refused (U8); that FECC tells the handler is the model's choice (log 14). -/
def Obligations.RetiFromFinalNMIIsRefused : Prop :=
  ∀ s : State, flagOf s.psw .ep = false → flagOf s.psw .np = true →
    (s.ecr.extractLsb' 16 16 = 0x0020#16 ∨ s.ecr.extractLsb' 16 16 = 0x0030#16) →
    exec .reti s = .refused .nmiReturn

/-- DI, EI, NOP and HALT: the ID flag set, cleared, nothing, HALT mode; and the pc. -/
def Obligations.InterruptControlHaltAndNop : Prop :=
  ∀ s : State,
    Means .di [0x07E0#16, 0x0160#16] s (fun t =>
      flagOf t.psw .id = true ∧ Advanced 4#32 s t ∧ Frame [] [.id] [] s t ∧ SameMemory s t) ∧
    Means .ei [0x87E0#16, 0x0160#16] s (fun t =>
      flagOf t.psw .id = false ∧ Advanced 4#32 s t ∧ Frame [] [.id] [] s t ∧ SameMemory s t) ∧
    Means .nop [0x0000#16] s (fun t => Advanced 2#32 s t ∧ Frame [] [] [] s t ∧ SameMemory s t) ∧
    Means .halt [0x07E0#16, 0x0120#16] s (fun t =>
      t = { s with pc := (s.pc + 4#32) &&& 0x03FFFFFE#32, halted := true })

/-- LDSR writes the writable bits of every register it may name, and nothing else but the pc. That EIPC, FEPC, CTPC and
DBPC keep bit 0 as written is the spec's decision D7 (R58; log 8). -/
def Obligations.LdsrWritesWritableBits : Prop :=
  ∀ (s : State) (reg2 : Reg),
    (∀ n ∈ [0#5, 2#5, 16#5, 18#5], Means (.ldsr reg2 n) [n ++ 0b111111#6 ++ reg2, 0x0020#16] s (fun t =>
      t.sysReg n = some (s.gpr reg2 &&& 0x03FFFFFF#32) ∧ Advanced 4#32 s t ∧ Frame [] [] [n] s t ∧ SameMemory s t)) ∧
    (∀ n ∈ [1#5, 3#5, 17#5, 19#5], Means (.ldsr reg2 n) [n ++ 0b111111#6 ++ reg2, 0x0020#16] s (fun t =>
      t.sysReg n = some (s.gpr reg2 &&& 0xFF#32) ∧ Advanced 4#32 s t ∧ Frame [] [] [n] s t ∧ SameMemory s t)) ∧
    Means (.ldsr reg2 20#5) [20#5 ++ 0b111111#6 ++ reg2, 0x0020#16] s (fun t =>
      t.ctbp = s.gpr reg2 &&& 0x03FFFFFE#32 ∧ Advanced 4#32 s t ∧ Frame [] [] [20#5] s t ∧ SameMemory s t) ∧
    Means (.ldsr reg2 5#5) [5#5 ++ 0b111111#6 ++ reg2, 0x0020#16] s (fun t =>
      t.psw = s.gpr reg2 &&& 0xFF#32 ∧ Advanced 4#32 s t ∧ FrameButPSW [] [] s t ∧ SameMemory s t)

/-- STSR reads every register of Table 2-2 by its number. -/
def Obligations.StsrReadsEveryRegister : Prop :=
  ∀ (s : State) (reg2 : Reg),
    ∀ p ∈ [(0#5, s.eipc), (1#5, s.eipsw), (2#5, s.fepc), (3#5, s.fepsw), (4#5, s.ecr), (5#5, s.psw), (16#5, s.ctpc),
        (17#5, s.ctpsw), (18#5, s.dbpc), (19#5, s.dbpsw), (20#5, s.ctbp), (21#5, s.dir)],
      Means (.stsr p.1 reg2) [reg2 ++ 0b111111#6 ++ p.1, 0x0040#16] s (WritesOnly reg2 p.2 4#32 s)

/-- LDSR to ECR, DIR or a reserved number and STSR from a reserved number have no meaning (the spec's decision D6, U3, U4;
log 20). -/
def Obligations.ReservedSystemRegistersAreRefused : Prop :=
  ∀ (s : State) (n : BitVec 5) (reg2 : Reg),
    let reserved := (6 ≤ n.toNat ∧ n.toNat ≤ 15) ∨ 22 ≤ n.toNat
    (reserved ∨ n = 4#5 ∨ n = 21#5 → exec (.ldsr reg2 n) s = .refused (.reservedSystemRegister n)) ∧
    (reserved → exec (.stsr n reg2) s = .refused (.reservedSystemRegister n))

/-- PREPARE, all five forms: the listed registers stored downward from sp, sp moved past the frame, ep as the form
says. That sp keeps its two low bits, only the bus address being masked, is the spec's decision D10 (log 8); that a byte
which is not plain RAM stays as held is D14 (log 5). -/
def Obligations.PrepareBuildsTheFrame : Prop :=
  ∀ (s : State) (list12 : BitVec 12) (imm5 : BitVec 5) (imm16 : BitVec 16) (imm32 : BitVec 32), s.mem.wf = true →
    let h : Half := 0#5 ++ 0b11110#5 ++ imm5 ++ list12.extractLsb' 10 1
    let sp := preparedStack list12 imm5 s
    let setsEP := fun (ep : Word) (len : Word) (t : State) =>
      t.gpr 3#5 = sp ∧ t.gpr 30#5 = ep ∧ Pushed (listRegs list12) s t ∧ Advanced len s t ∧ Frame [3#5, 30#5] [] [] s t
    Means (.prepare list12 imm5) [h, listHalf list12 0b00001#5] s (fun t =>
      t.gpr 3#5 = sp ∧ Pushed (listRegs list12) s t ∧ Advanced 4#32 s t ∧ Frame [3#5] [] [] s t) ∧
    Means (.prepareSp list12 imm5) [h, listHalf list12 0b00011#5] s (setsEP sp 4#32) ∧
    Means (.prepareImm16 list12 imm5 imm16) [h, listHalf list12 0b01011#5, imm16] s
      (setsEP (imm16.signExtend 32) 6#32) ∧
    Means (.prepareImm16Hi list12 imm5 imm16) [h, listHalf list12 0b10011#5, imm16] s
      (setsEP (BitVec.ofNat 32 (65536 * imm16.toNat)) 6#32) ∧
    Means (.prepareImm32 list12 imm5 imm32)
      [h, listHalf list12 0b11011#5, imm32.extractLsb' 0 16, imm32.extractLsb' 16 16] s (setsEP imm32 8#32)

/-- DISPOSE, both forms: the listed registers loaded upward from above the frame, sp moved past them, and the jump by
the register as it is after the loads. That sp keeps its two low bits, only the bus address being masked, is the spec's
decision D10 (log 8). -/
def Obligations.DisposeRemovesTheFrame : Prop :=
  ∀ (s : State) (imm5 : BitVec 5) (list12 : BitVec 12) (reg1 : Reg),
    let h : Half := 0#5 ++ 0b11001#5 ++ imm5 ++ list12.extractLsb' 10 1
    let popped := fun (t : State) =>
      Popped imm5 (listRegs list12).reverse s t ∧ t.gpr 3#5 = disposedStack imm5 list12 s ∧
        Frame (3#5 :: listRegs list12) [] [] s t ∧ SameMemory s t
    Means (.dispose imm5 list12) [h, listHalf list12 0#5] s (fun t => popped t ∧ Advanced 4#32 s t) ∧
    Means (.disposeJump imm5 list12 reg1) [h, listHalf list12 reg1] s (fun t => popped t ∧ JumpsTo (t.gpr reg1) t)

/-- DISPOSE, in either form, undoes PREPARE, in any form, with the same list and frame, where the stack is plain RAM:
every register holds what it held before, but for ep where the form of PREPARE set it and the list does not restore it.
That it does so with sp aligned or not rests on the spec's decision D10 (log 8): sp itself is not masked. -/
def Obligations.DisposeUndoesPrepare : Prop :=
  ∀ (s t u : State) (imm5 : BitVec 5) (list12 : BitVec 12) (imm16 : BitVec 16) (imm32 : BitVec 32) (reg1 : Reg),
    s.mem.wf = true →
    (∀ k < 4 * (listRegs list12).length, s.product.kindAt (s.product.cell
      (stackAddr (s.gpr 3#5 - BitVec.ofNat 32 (4 * (listRegs list12).length)) + BitVec.ofNat 32 k)) = .ram) →
    ∀ i ∈ [Instr.prepare list12 imm5, .prepareSp list12 imm5, .prepareImm16 list12 imm5 imm16,
      .prepareImm16Hi list12 imm5 imm16, .prepareImm32 list12 imm5 imm32],
    ∀ j ∈ [Instr.dispose imm5 list12, .disposeJump imm5 list12 reg1],
    exec i s = .next t → exec j t = .next u →
    ∀ r : Reg, (r = 30#5 → i = .prepare list12 imm5 ∨ list12.getLsbD 10 = true) → u.gpr r = s.gpr r

/-! ### Exceptions (spec/60_exceptions.md, spec/48_debug.md) -/

/-- TRAP: EIPC, EIPSW, EICC, the EP and ID flags and the handler of its vector. -/
def Obligations.TrapEntersItsHandler : Prop :=
  ∀ (s : State) (vector : BitVec 5),
    Means (.trap vector) [0b00000111111#11 ++ vector, 0x0100#16] s (fun t =>
      t.eipc = (s.pc + 4#32) &&& 0x03FFFFFE#32 ∧ t.eipsw = s.psw ∧
        (t.ecr.extractLsb' 0 16).toNat = 0x40 + vector.toNat ∧
        t.ecr.extractLsb' 16 16 = s.ecr.extractLsb' 16 16 ∧ flagOf t.psw .ep = true ∧ flagOf t.psw .id = true ∧
        t.pc = (if vector.toNat ≤ 0x0F then 0x40#32 else 0x50#32) ∧
        Frame [] [.ep, .id] [0#5, 1#5, 4#5] s t ∧ SameMemory s t)

/-- The illegal instruction and DBTRAP: DBPC, DBPSW, the NP, EP and ID flags, DM and the handler at 60h; ECR stays. -/
def Obligations.TrapsEnterTheDebugHandler : Prop :=
  ∀ (s : State) (a : BitVec 5) (b : BitVec 3) (c : BitVec 6) (d e : BitVec 5),
    Means (.illegalHigh a b c d e) [d ++ 0b111111#6 ++ e, a ++ 1#1 ++ b ++ c ++ 0#1] s
      (EntersDebugHandler ((s.pc + 4#32) &&& 0x03FFFFFE#32) s) ∧
    Means (.illegalSeven a c d e) [d ++ 0b111111#6 ++ e, a ++ 0b0111#4 ++ c ++ 0#1] s
      (EntersDebugHandler ((s.pc + 4#32) &&& 0x03FFFFFE#32) s) ∧
    Means .dbtrap [0xF840#16] s (EntersDebugHandler ((s.pc + 2#32) &&& 0x03FFFFFE#32) s)

/-- An acknowledgeable NMI is taken at a boundary: FEPC, FEPSW, FECC, the NP, ID and EP flags, its handler. NMI2 is taken
whatever NP is, NMI1 and NMI0 with NP = 0, in this order (the spec's decisions D4, D5; log 8); that its request is
consumed is the spec's decision D3 (log 8, log 9). What the abandoned instruction had done is
AbandonedInstructionsKeepSP. -/
def Obligations.NMIsAreTaken : Prop :=
  ∀ s : State, s.sampling →
    let r := s.met.req
    (r.nmi2 = true → Steps s fun t =>
      EntersNMI 0x0030#16 0x30#32 s t ∧ KeptByInterrupt s t ∧ t.req = { r with nmi2 := false }) ∧
    (r.nmi2 = false → flagOf s.psw .np = false → r.nmi1 = true → Steps s fun t =>
      EntersNMI 0x0020#16 0x20#32 s t ∧ KeptByInterrupt s t ∧ t.req = { r with nmi1 := false }) ∧
    (r.nmi2 = false → flagOf s.psw .np = false → r.nmi1 = false → r.nmi0 = true → Steps s fun t =>
      EntersNMI 0x0010#16 0x10#32 s t ∧ KeptByInterrupt s t ∧ t.req = { r with nmi0 := false })

/-- A maskable request is taken at a boundary with NP = 0 and ID = 0 where no NMI comes before it:
EIPC, EIPSW, EICC, the ID and EP flags, the handler at its code. That NMIs come first is the spec's decision D4 (log 8),
that the request is consumed its decision D3 (log 8), and that the line is empty then the model's choice (log 27). -/
def Obligations.MaskableInterruptsAreTaken : Prop :=
  ∀ (s : State) (code : Half), s.sampling → s.met.req.nmi0 = false → s.met.req.nmi1 = false → s.met.req.nmi2 = false →
    flagOf s.psw .np = false → flagOf s.psw .id = false → s.met.req.int = some code →
    Steps s fun t => EntersMaskable code s t ∧ KeptByInterrupt s t ∧ t.req = { s.met.req with int := none }

/-- Requests are held: NMI1, NMI0 and the maskable request with NP = 1, the maskable request with ID = 1, and none is
lost: after the environment's action at a boundary a request is asserted if it was or is now (an NMI only on an input
the product has), the maskable one as the INTC keeps, withdraws or replaces it (log 27), and the execution of an
instruction leaves all of them so. HALT mode goes on, and only the environment moves, at a boundary at which nothing is
acknowledgeable or the environment defers it (D2). That a request held by NP = 1 does not end HALT mode is the spec's
decision D9 (log 8), that NMI2 is not held D5. -/
def Obligations.RequestsAreHeld : Prop :=
  (∀ s : State,
    s.met.req.nmi0 = (s.req.nmi0 || (s.input.nmi0 && s.product.nmi0)) ∧
    s.met.req.nmi1 = (s.req.nmi1 || (s.input.nmi1 && s.product.nmi1)) ∧
    s.met.req.nmi2 = (s.req.nmi2 || (s.input.nmi2 && s.product.nmi2)) ∧
    s.met.req.debugTrap = (s.req.debugTrap || s.input.debugTrap) ∧
    (s.input.intc = .keep → s.met.req.int = s.req.int) ∧
    (s.input.intc = .withdraw → s.met.req.int = none) ∧
    (∀ code, s.input.intc = .present code → s.met.req.int = some code) ∧
    (s.executing → ∀ t, step s = .next t → t.req = s.met.req)) ∧
  (∀ s : State, s.input.reset = false → s.met.req.debugTrap = false →
    (s.met.req.nmi2 = false →
      (flagOf s.psw .np = true ∨ (s.met.req.nmi1 = false ∧ s.met.req.nmi0 = false)) →
      (flagOf s.psw .np = true ∨ flagOf s.psw .id = true ∨ s.met.req.int = none) → s.met.pendingEvent = none) ∧
    (s.halted = true → (s.met.pendingEvent = none ∨ s.input.defer = true) →
      step s = .next { s with script := s.script.tail, req := s.met.req }))

/-- A debug function trap is always acknowledged, in HALT mode too, with the debug trap's entry and restore PC = pc (the
spec's decision D8). The model's choices (log 10): it comes before the interrupts, also where one of them would meet the
SLD conflict of R515, it is not deferred, and it ends HALT mode; that its request is consumed is D3 carried over to it
(log 9, log 10). -/
def Obligations.DebugFunctionTrapIsTakenFirst : Prop :=
  ∀ s : State, s.input.reset = false → s.met.req.debugTrap = true →
    Steps s fun t =>
      t.dbpc = s.pc ∧ t.dbpsw = s.psw ∧ flagOf t.psw .np = true ∧ flagOf t.psw .ep = true ∧
        flagOf t.psw .id = true ∧ t.dir = s.dir ||| 1#32 ∧ t.ecr = s.ecr ∧ t.pc = 0x60#32 ∧ t.halted = false ∧
        EventFrame [.np, .ep, .id] [18#5, 19#5, 21#5] s t ∧ (∀ r : Reg, t.gpr r = s.gpr r) ∧
        t.req = { s.met.req with debugTrap := false } ∧ SameMemory s t

/-- The SLD conflict: an acknowledgeable interrupt has no meaning where an instruction of list ii of R515 stands at the
pc and behind it an SLD whose destination it names, or where it has just been executed and that SLD stands at the pc.
`window` is how the model knows in the second case: an executed instruction of list ii puts the registers it names
there, any other empties it. With any other instruction at the pc there is no conflict. Which instructions arm it is
read from the damaged text, that the boundaries on both sides of the instruction of list ii are meant is the model's
reading of "the decode operation", and list i is not asked (log 13); a debug function trap is taken all the same (log
10), and an interrupt that ends HALT mode meets no conflict, both the model's choices (log 13). -/
def Obligations.SLDConflictIsRefused : Prop :=
  (∀ (s : State) (i : Instr) (reg2 : Reg) (e : Event), s.holdsCode i → i.shortLoadsTo reg2 → reg2 ∈ s.window →
    s.input.reset = false → s.halted = false → s.met.pendingEvent = some e → e ≠ .debugTrap →
    step s = .refused .sldInterruptConflict) ∧
  (∀ (s : State) (i j : Instr) (r : Reg) (e : Event), s.holdsCode i → s.behind.holdsCode j → j.shortLoadsTo r →
    i.hazardNames r → s.input.reset = false → s.halted = false → s.met.pendingEvent = some e → e ≠ .debugTrap →
    step s = .refused .sldInterruptConflict) ∧
  (∀ (s : State) (i : Instr), s.holdsCode i → (∀ r, i.shortLoadsTo r → r ∉ s.window) →
    ((∀ r, ¬ i.hazardNames r) ∨ ∃ j, s.behind.holdsCode j ∧ ∀ r, j.shortLoadsTo r → ¬ i.hazardNames r) →
    s.met.sldConflict = false) ∧
  (∀ (s t : State) (i : Instr), s.holdsCode i → s.executing → step s = .next t →
    (∀ reg1 reg2, i ∈ hazardPairs reg1 reg2 → t.window = [reg1, reg2]) ∧
    (∀ imm5 reg2, i ∈ hazardImms imm5 reg2 → t.window = [reg2]) ∧
    ((∀ reg1 reg2 imm5, i ∉ hazardPairs reg1 reg2 ∧ i ∉ hazardImms imm5 reg2) → t.window = []))

/-- What an instruction abandoned for an interrupt after `progress` accesses has done when the handler starts. The first
clause says which instruction it is. sp is as before; PREPARE has stored that many registers of its list, at the bytes
PREPARE stores to, and changed no other byte and no register; DISPOSE has loaded that many registers of its list, from
r31 down, and changed no other register and no byte, but ep, if r30 is among them, is as before unless the environment's
`epLoaded` says otherwise (R341 and R413 against the prefix of R95: that the environment chooses is the model's choice,
log 15); any other instruction has changed neither. Where the instruction at the pc cannot be fetched, because a byte of
it was stored to (R106), is undefined or in a prohibited range, that the event is taken and nothing has been done,
whatever `progress` says, is the model's choice (log 12, log 15). -/
def Obligations.AbandonedInstructionsKeepSP : Prop :=
  (∀ (s : State) (i : Instr), s.holdsCode i → s.met.fetch = .instr i s.met) ∧
  (∀ (s u : State) (i : Instr), s.interrupted → s.met.fetch = .instr i u →
    let n := s.input.progress
    Steps s fun t =>
      t.gpr 3#5 = s.gpr 3#5 ∧
      (∀ list12, i.prepares list12 →
        (∀ r : Reg, t.gpr r = s.gpr r) ∧ (s.mem.wf = true → Pushed ((listRegs list12).take n) s t)) ∧
      (∀ imm5 list12, i.disposes imm5 list12 →
        let loaded := (listRegs list12).reverse.take n
        (∀ j, (h : j < loaded.length) →
          if loaded[j] = 30#5 ∧ s.input.epLoaded = false then t.gpr 30#5 = s.gpr 30#5
          else PoppedAt imm5 j loaded[j] s t) ∧
        (∀ r : Reg, r ∉ loaded → t.gpr r = s.gpr r) ∧ SameMemory s t) ∧
      ((∀ imm5 list12, ¬ i.prepares list12 ∧ ¬ i.disposes imm5 list12) →
        (∀ r : Reg, t.gpr r = s.gpr r) ∧ SameMemory s t)) ∧
  (∀ s : State, s.interrupted → (∀ i u, s.met.fetch ≠ .instr i u) →
    Steps s fun t => (∀ r : Reg, t.gpr r = s.gpr r) ∧ SameMemory s t)

/-! ### Rules of the whole machine -/

/-- SAT is cumulative: only a saturated operation with OV = 1, and the instructions that replace the whole PSW, can set
it, and only the latter can clear it. -/
def Obligations.SATIsCumulative : Prop :=
  ∀ (i : Instr) (s t : State), exec i s = .next t → i.replacesPSW = false →
    (flagOf s.psw .sat = true → flagOf t.psw .sat = true) ∧
    (flagOf s.psw .sat = false → flagOf t.psw .sat = true → i.saturated = true ∧ flagOf t.psw .ov = true)

/-- NP and EP are written only by the traps and the instructions that replace the PSW, ID also by EI and DI. -/
def Obligations.OnlyTheseWriteStatusFlags : Prop :=
  ∀ (i : Instr) (s t : State), exec i s = .next t → i.replacesPSW = false → i.trapsToDebug = false →
    flagOf t.psw .np = flagOf s.psw .np ∧
    ((∀ v, i ≠ .trap v) → flagOf t.psw .ep = flagOf s.psw .ep ∧
      (i ≠ .ei → i ≠ .di → flagOf t.psw .id = flagOf s.psw .id))

/-- ECR is written by TRAP alone, and only its low half; DIR by the traps to 60h and DBRET alone; no instruction
touches the product or the environment; only HALT enters HALT mode (R60, R338, R445). The product, the requests and the
script are the model's form of the product's parameters and of the environment (log 4, log 9). -/
def Obligations.OnlyTheseWriteECRAndDIR : Prop :=
  ∀ (i : Instr) (s t : State), exec i s = .next t →
    t.ecr.extractLsb' 16 16 = s.ecr.extractLsb' 16 16 ∧ ((∀ v, i ≠ .trap v) → t.ecr = s.ecr) ∧
    (i.trapsToDebug = false → i ≠ .dbret → t.dir = s.dir) ∧
    t.product = s.product ∧ t.req = s.req ∧ t.script = s.script ∧ (i ≠ .halt → t.halted = s.halted)

/-- Only the stores, SET1, NOT1, CLR1 and PREPARE change a byte of memory. -/
def Obligations.OnlyStoresChangeMemory : Prop :=
  ∀ (i : Instr) (s t : State), exec i s = .next t → i.stores = false → SameMemory s t

/-- A load, of any width and form, right after a store, of any width and form, to plain RAM: if the bytes it reads are
among the `n` bytes stored, from the `k`-th on, it gets just those bytes of the register stored, the lowest at the lowest
address. -/
def Obligations.LoadsReadTheStoreBeforeThem : Prop :=
  ∀ (s t u : State) (i j : Instr) (a b : Word) (n m k : Nat) (v : Word) (r : Reg) (value : (Nat → Byte) → Word),
    s.mem.wf = true → i.storeOf s = some (a, n, v) → j.loadOf t = some (b, m, r, value) →
    b = a + BitVec.ofNat 32 k → k + m ≤ n →
    (∀ l < n, s.product.kindAt (s.product.cell (a + BitVec.ofNat 32 l)) = .ram) →
    exec i s = .next t → exec j t = .next u →
    u.gpr r = written r (value fun l => v.extractLsb' (8 * (k + l)) 8)
end

