-- ==== Sys2Proof/Laws/State.lean ====
section
/-! SUPPORT. One lemma per field and update of the state: a field an update does not name is as before, and a field
it names has the value written. -/

namespace Sys2Proof.Machine

variable (s : State)

/-! ### setReg -/

@[simp] theorem State.setReg_regs (r : Reg) (v : Word) : (s.setReg r v).regs = writeReg s.regs r v := rfl
@[simp] theorem State.setReg_pc (r : Reg) (v : Word) : (s.setReg r v).pc = s.pc := rfl
@[simp] theorem State.setReg_eipc (r : Reg) (v : Word) : (s.setReg r v).eipc = s.eipc := rfl
@[simp] theorem State.setReg_eipsw (r : Reg) (v : Word) : (s.setReg r v).eipsw = s.eipsw := rfl
@[simp] theorem State.setReg_fepc (r : Reg) (v : Word) : (s.setReg r v).fepc = s.fepc := rfl
@[simp] theorem State.setReg_fepsw (r : Reg) (v : Word) : (s.setReg r v).fepsw = s.fepsw := rfl
@[simp] theorem State.setReg_ecr (r : Reg) (v : Word) : (s.setReg r v).ecr = s.ecr := rfl
@[simp] theorem State.setReg_psw (r : Reg) (v : Word) : (s.setReg r v).psw = s.psw := rfl
@[simp] theorem State.setReg_ctpc (r : Reg) (v : Word) : (s.setReg r v).ctpc = s.ctpc := rfl
@[simp] theorem State.setReg_ctpsw (r : Reg) (v : Word) : (s.setReg r v).ctpsw = s.ctpsw := rfl
@[simp] theorem State.setReg_dbpc (r : Reg) (v : Word) : (s.setReg r v).dbpc = s.dbpc := rfl
@[simp] theorem State.setReg_dbpsw (r : Reg) (v : Word) : (s.setReg r v).dbpsw = s.dbpsw := rfl
@[simp] theorem State.setReg_ctbp (r : Reg) (v : Word) : (s.setReg r v).ctbp = s.ctbp := rfl
@[simp] theorem State.setReg_dir (r : Reg) (v : Word) : (s.setReg r v).dir = s.dir := rfl
@[simp] theorem State.setReg_halted (r : Reg) (v : Word) : (s.setReg r v).halted = s.halted := rfl
@[simp] theorem State.setReg_mem (r : Reg) (v : Word) : (s.setReg r v).mem = s.mem := rfl
@[simp] theorem State.setReg_product (r : Reg) (v : Word) : (s.setReg r v).product = s.product := rfl
@[simp] theorem State.setReg_req (r : Reg) (v : Word) : (s.setReg r v).req = s.req := rfl
@[simp] theorem State.setReg_script (r : Reg) (v : Word) : (s.setReg r v).script = s.script := rfl
@[simp] theorem State.setReg_draws (r : Reg) (v : Word) : (s.setReg r v).draws = s.draws := rfl
@[simp] theorem State.setReg_unsynced (r : Reg) (v : Word) : (s.setReg r v).unsynced = s.unsynced := rfl
@[simp] theorem State.setReg_window (r : Reg) (v : Word) : (s.setReg r v).window = s.window := rfl

/-! ### advance -/

@[simp] theorem State.advance_regs (len : Word) : (s.advance len).regs = s.regs := rfl
@[simp] theorem State.advance_pc (len : Word) : (s.advance len).pc = s.nextPC len := rfl
@[simp] theorem State.advance_eipc (len : Word) : (s.advance len).eipc = s.eipc := rfl
@[simp] theorem State.advance_eipsw (len : Word) : (s.advance len).eipsw = s.eipsw := rfl
@[simp] theorem State.advance_fepc (len : Word) : (s.advance len).fepc = s.fepc := rfl
@[simp] theorem State.advance_fepsw (len : Word) : (s.advance len).fepsw = s.fepsw := rfl
@[simp] theorem State.advance_ecr (len : Word) : (s.advance len).ecr = s.ecr := rfl
@[simp] theorem State.advance_psw (len : Word) : (s.advance len).psw = s.psw := rfl
@[simp] theorem State.advance_ctpc (len : Word) : (s.advance len).ctpc = s.ctpc := rfl
@[simp] theorem State.advance_ctpsw (len : Word) : (s.advance len).ctpsw = s.ctpsw := rfl
@[simp] theorem State.advance_dbpc (len : Word) : (s.advance len).dbpc = s.dbpc := rfl
@[simp] theorem State.advance_dbpsw (len : Word) : (s.advance len).dbpsw = s.dbpsw := rfl
@[simp] theorem State.advance_ctbp (len : Word) : (s.advance len).ctbp = s.ctbp := rfl
@[simp] theorem State.advance_dir (len : Word) : (s.advance len).dir = s.dir := rfl
@[simp] theorem State.advance_halted (len : Word) : (s.advance len).halted = s.halted := rfl
@[simp] theorem State.advance_mem (len : Word) : (s.advance len).mem = s.mem := rfl
@[simp] theorem State.advance_product (len : Word) : (s.advance len).product = s.product := rfl
@[simp] theorem State.advance_req (len : Word) : (s.advance len).req = s.req := rfl
@[simp] theorem State.advance_script (len : Word) : (s.advance len).script = s.script := rfl
@[simp] theorem State.advance_draws (len : Word) : (s.advance len).draws = s.draws := rfl
@[simp] theorem State.advance_unsynced (len : Word) : (s.advance len).unsynced = s.unsynced := rfl
@[simp] theorem State.advance_window (len : Word) : (s.advance len).window = s.window := rfl

/-! ### jump -/

@[simp] theorem State.jump_regs (target : Word) : (s.jump target).regs = s.regs := rfl
@[simp] theorem State.jump_pc (target : Word) : (s.jump target).pc = pcMask target := rfl
@[simp] theorem State.jump_eipc (target : Word) : (s.jump target).eipc = s.eipc := rfl
@[simp] theorem State.jump_eipsw (target : Word) : (s.jump target).eipsw = s.eipsw := rfl
@[simp] theorem State.jump_fepc (target : Word) : (s.jump target).fepc = s.fepc := rfl
@[simp] theorem State.jump_fepsw (target : Word) : (s.jump target).fepsw = s.fepsw := rfl
@[simp] theorem State.jump_ecr (target : Word) : (s.jump target).ecr = s.ecr := rfl
@[simp] theorem State.jump_psw (target : Word) : (s.jump target).psw = s.psw := rfl
@[simp] theorem State.jump_ctpc (target : Word) : (s.jump target).ctpc = s.ctpc := rfl
@[simp] theorem State.jump_ctpsw (target : Word) : (s.jump target).ctpsw = s.ctpsw := rfl
@[simp] theorem State.jump_dbpc (target : Word) : (s.jump target).dbpc = s.dbpc := rfl
@[simp] theorem State.jump_dbpsw (target : Word) : (s.jump target).dbpsw = s.dbpsw := rfl
@[simp] theorem State.jump_ctbp (target : Word) : (s.jump target).ctbp = s.ctbp := rfl
@[simp] theorem State.jump_dir (target : Word) : (s.jump target).dir = s.dir := rfl
@[simp] theorem State.jump_halted (target : Word) : (s.jump target).halted = s.halted := rfl
@[simp] theorem State.jump_mem (target : Word) : (s.jump target).mem = s.mem := rfl
@[simp] theorem State.jump_product (target : Word) : (s.jump target).product = s.product := rfl
@[simp] theorem State.jump_req (target : Word) : (s.jump target).req = s.req := rfl
@[simp] theorem State.jump_script (target : Word) : (s.jump target).script = s.script := rfl
@[simp] theorem State.jump_draws (target : Word) : (s.jump target).draws = s.draws := rfl
@[simp] theorem State.jump_unsynced (target : Word) :
    (s.jump target).unsynced = s.unsynced.filter fun c => s.product.kindAt c != .ram := rfl
@[simp] theorem State.jump_window (target : Word) : (s.jump target).window = s.window := rfl

/-! ### setFlags -/

@[simp] theorem State.setFlags_regs (w : FlagWrite) : (s.setFlags w).regs = s.regs := rfl
@[simp] theorem State.setFlags_pc (w : FlagWrite) : (s.setFlags w).pc = s.pc := rfl
@[simp] theorem State.setFlags_eipc (w : FlagWrite) : (s.setFlags w).eipc = s.eipc := rfl
@[simp] theorem State.setFlags_eipsw (w : FlagWrite) : (s.setFlags w).eipsw = s.eipsw := rfl
@[simp] theorem State.setFlags_fepc (w : FlagWrite) : (s.setFlags w).fepc = s.fepc := rfl
@[simp] theorem State.setFlags_fepsw (w : FlagWrite) : (s.setFlags w).fepsw = s.fepsw := rfl
@[simp] theorem State.setFlags_ecr (w : FlagWrite) : (s.setFlags w).ecr = s.ecr := rfl
@[simp] theorem State.setFlags_psw (w : FlagWrite) : (s.setFlags w).psw = w.apply s.psw := rfl
@[simp] theorem State.setFlags_ctpc (w : FlagWrite) : (s.setFlags w).ctpc = s.ctpc := rfl
@[simp] theorem State.setFlags_ctpsw (w : FlagWrite) : (s.setFlags w).ctpsw = s.ctpsw := rfl
@[simp] theorem State.setFlags_dbpc (w : FlagWrite) : (s.setFlags w).dbpc = s.dbpc := rfl
@[simp] theorem State.setFlags_dbpsw (w : FlagWrite) : (s.setFlags w).dbpsw = s.dbpsw := rfl
@[simp] theorem State.setFlags_ctbp (w : FlagWrite) : (s.setFlags w).ctbp = s.ctbp := rfl
@[simp] theorem State.setFlags_dir (w : FlagWrite) : (s.setFlags w).dir = s.dir := rfl
@[simp] theorem State.setFlags_halted (w : FlagWrite) : (s.setFlags w).halted = s.halted := rfl
@[simp] theorem State.setFlags_mem (w : FlagWrite) : (s.setFlags w).mem = s.mem := rfl
@[simp] theorem State.setFlags_product (w : FlagWrite) : (s.setFlags w).product = s.product := rfl
@[simp] theorem State.setFlags_req (w : FlagWrite) : (s.setFlags w).req = s.req := rfl
@[simp] theorem State.setFlags_script (w : FlagWrite) : (s.setFlags w).script = s.script := rfl
@[simp] theorem State.setFlags_draws (w : FlagWrite) : (s.setFlags w).draws = s.draws := rfl
@[simp] theorem State.setFlags_unsynced (w : FlagWrite) : (s.setFlags w).unsynced = s.unsynced := rfl
@[simp] theorem State.setFlags_window (w : FlagWrite) : (s.setFlags w).window = s.window := rfl

/-! ### afterRead -/

@[simp] theorem State.afterRead_regs (n : Nat) (a : Word) : (s.afterRead n a).regs = s.regs := rfl
@[simp] theorem State.afterRead_pc (n : Nat) (a : Word) : (s.afterRead n a).pc = s.pc := rfl
@[simp] theorem State.afterRead_eipc (n : Nat) (a : Word) : (s.afterRead n a).eipc = s.eipc := rfl
@[simp] theorem State.afterRead_eipsw (n : Nat) (a : Word) : (s.afterRead n a).eipsw = s.eipsw := rfl
@[simp] theorem State.afterRead_fepc (n : Nat) (a : Word) : (s.afterRead n a).fepc = s.fepc := rfl
@[simp] theorem State.afterRead_fepsw (n : Nat) (a : Word) : (s.afterRead n a).fepsw = s.fepsw := rfl
@[simp] theorem State.afterRead_ecr (n : Nat) (a : Word) : (s.afterRead n a).ecr = s.ecr := rfl
@[simp] theorem State.afterRead_psw (n : Nat) (a : Word) : (s.afterRead n a).psw = s.psw := rfl
@[simp] theorem State.afterRead_ctpc (n : Nat) (a : Word) : (s.afterRead n a).ctpc = s.ctpc := rfl
@[simp] theorem State.afterRead_ctpsw (n : Nat) (a : Word) : (s.afterRead n a).ctpsw = s.ctpsw := rfl
@[simp] theorem State.afterRead_dbpc (n : Nat) (a : Word) : (s.afterRead n a).dbpc = s.dbpc := rfl
@[simp] theorem State.afterRead_dbpsw (n : Nat) (a : Word) : (s.afterRead n a).dbpsw = s.dbpsw := rfl
@[simp] theorem State.afterRead_ctbp (n : Nat) (a : Word) : (s.afterRead n a).ctbp = s.ctbp := rfl
@[simp] theorem State.afterRead_dir (n : Nat) (a : Word) : (s.afterRead n a).dir = s.dir := rfl
@[simp] theorem State.afterRead_halted (n : Nat) (a : Word) : (s.afterRead n a).halted = s.halted := rfl
@[simp] theorem State.afterRead_mem (n : Nat) (a : Word) : (s.afterRead n a).mem = s.mem := rfl
@[simp] theorem State.afterRead_product (n : Nat) (a : Word) : (s.afterRead n a).product = s.product := rfl
@[simp] theorem State.afterRead_req (n : Nat) (a : Word) : (s.afterRead n a).req = s.req := rfl
@[simp] theorem State.afterRead_script (n : Nat) (a : Word) : (s.afterRead n a).script = s.script := rfl
@[simp] theorem State.afterRead_draws (n : Nat) (a : Word) :
    (s.afterRead n a).draws = if s.product.plainData a n then s.draws else s.draws + n := rfl
@[simp] theorem State.afterRead_unsynced (n : Nat) (a : Word) : (s.afterRead n a).unsynced = s.unsynced := rfl
@[simp] theorem State.afterRead_window (n : Nat) (a : Word) : (s.afterRead n a).window = s.window := rfl

/-! ### writeByte -/

@[simp] theorem State.writeByte_regs (a : Word) (v : Byte) : (s.writeByte a v).regs = s.regs := rfl
@[simp] theorem State.writeByte_pc (a : Word) (v : Byte) : (s.writeByte a v).pc = s.pc := rfl
@[simp] theorem State.writeByte_eipc (a : Word) (v : Byte) : (s.writeByte a v).eipc = s.eipc := rfl
@[simp] theorem State.writeByte_eipsw (a : Word) (v : Byte) : (s.writeByte a v).eipsw = s.eipsw := rfl
@[simp] theorem State.writeByte_fepc (a : Word) (v : Byte) : (s.writeByte a v).fepc = s.fepc := rfl
@[simp] theorem State.writeByte_fepsw (a : Word) (v : Byte) : (s.writeByte a v).fepsw = s.fepsw := rfl
@[simp] theorem State.writeByte_ecr (a : Word) (v : Byte) : (s.writeByte a v).ecr = s.ecr := rfl
@[simp] theorem State.writeByte_psw (a : Word) (v : Byte) : (s.writeByte a v).psw = s.psw := rfl
@[simp] theorem State.writeByte_ctpc (a : Word) (v : Byte) : (s.writeByte a v).ctpc = s.ctpc := rfl
@[simp] theorem State.writeByte_ctpsw (a : Word) (v : Byte) : (s.writeByte a v).ctpsw = s.ctpsw := rfl
@[simp] theorem State.writeByte_dbpc (a : Word) (v : Byte) : (s.writeByte a v).dbpc = s.dbpc := rfl
@[simp] theorem State.writeByte_dbpsw (a : Word) (v : Byte) : (s.writeByte a v).dbpsw = s.dbpsw := rfl
@[simp] theorem State.writeByte_ctbp (a : Word) (v : Byte) : (s.writeByte a v).ctbp = s.ctbp := rfl
@[simp] theorem State.writeByte_dir (a : Word) (v : Byte) : (s.writeByte a v).dir = s.dir := rfl
@[simp] theorem State.writeByte_halted (a : Word) (v : Byte) : (s.writeByte a v).halted = s.halted := rfl
@[simp] theorem State.writeByte_mem (a : Word) (v : Byte) :
    (s.writeByte a v).mem = s.product.writeCell (s.product.cell a) v s.mem := rfl
@[simp] theorem State.writeByte_product (a : Word) (v : Byte) : (s.writeByte a v).product = s.product := rfl
@[simp] theorem State.writeByte_req (a : Word) (v : Byte) : (s.writeByte a v).req = s.req := rfl
@[simp] theorem State.writeByte_script (a : Word) (v : Byte) : (s.writeByte a v).script = s.script := rfl
@[simp] theorem State.writeByte_draws (a : Word) (v : Byte) : (s.writeByte a v).draws = s.draws := rfl
@[simp] theorem State.writeByte_unsynced (a : Word) (v : Byte) :
    (s.writeByte a v).unsynced = s.product.cell a :: s.unsynced := rfl
@[simp] theorem State.writeByte_window (a : Word) (v : Byte) : (s.writeByte a v).window = s.window := rfl

/-! ### writeResult -/

@[simp] theorem State.writeResult_regs (r : Reg) (v : Word) (w : FlagWrite) :
    (s.writeResult r v w).regs = writeReg s.regs r v := rfl
@[simp] theorem State.writeResult_pc (r : Reg) (v : Word) (w : FlagWrite) : (s.writeResult r v w).pc = s.pc := rfl
@[simp] theorem State.writeResult_eipc (r : Reg) (v : Word) (w : FlagWrite) :
    (s.writeResult r v w).eipc = s.eipc := rfl
@[simp] theorem State.writeResult_eipsw (r : Reg) (v : Word) (w : FlagWrite) :
    (s.writeResult r v w).eipsw = s.eipsw := rfl
@[simp] theorem State.writeResult_fepc (r : Reg) (v : Word) (w : FlagWrite) :
    (s.writeResult r v w).fepc = s.fepc := rfl
@[simp] theorem State.writeResult_fepsw (r : Reg) (v : Word) (w : FlagWrite) :
    (s.writeResult r v w).fepsw = s.fepsw := rfl
@[simp] theorem State.writeResult_ecr (r : Reg) (v : Word) (w : FlagWrite) : (s.writeResult r v w).ecr = s.ecr := rfl
@[simp] theorem State.writeResult_psw (r : Reg) (v : Word) (w : FlagWrite) :
    (s.writeResult r v w).psw = w.apply s.psw := rfl
@[simp] theorem State.writeResult_ctpc (r : Reg) (v : Word) (w : FlagWrite) :
    (s.writeResult r v w).ctpc = s.ctpc := rfl
@[simp] theorem State.writeResult_ctpsw (r : Reg) (v : Word) (w : FlagWrite) :
    (s.writeResult r v w).ctpsw = s.ctpsw := rfl
@[simp] theorem State.writeResult_dbpc (r : Reg) (v : Word) (w : FlagWrite) :
    (s.writeResult r v w).dbpc = s.dbpc := rfl
@[simp] theorem State.writeResult_dbpsw (r : Reg) (v : Word) (w : FlagWrite) :
    (s.writeResult r v w).dbpsw = s.dbpsw := rfl
@[simp] theorem State.writeResult_ctbp (r : Reg) (v : Word) (w : FlagWrite) :
    (s.writeResult r v w).ctbp = s.ctbp := rfl
@[simp] theorem State.writeResult_dir (r : Reg) (v : Word) (w : FlagWrite) : (s.writeResult r v w).dir = s.dir := rfl
@[simp] theorem State.writeResult_halted (r : Reg) (v : Word) (w : FlagWrite) :
    (s.writeResult r v w).halted = s.halted := rfl
@[simp] theorem State.writeResult_mem (r : Reg) (v : Word) (w : FlagWrite) : (s.writeResult r v w).mem = s.mem := rfl
@[simp] theorem State.writeResult_product (r : Reg) (v : Word) (w : FlagWrite) :
    (s.writeResult r v w).product = s.product := rfl
@[simp] theorem State.writeResult_req (r : Reg) (v : Word) (w : FlagWrite) : (s.writeResult r v w).req = s.req := rfl
@[simp] theorem State.writeResult_script (r : Reg) (v : Word) (w : FlagWrite) :
    (s.writeResult r v w).script = s.script := rfl
@[simp] theorem State.writeResult_draws (r : Reg) (v : Word) (w : FlagWrite) :
    (s.writeResult r v w).draws = s.draws := rfl
@[simp] theorem State.writeResult_unsynced (r : Reg) (v : Word) (w : FlagWrite) :
    (s.writeResult r v w).unsynced = s.unsynced := rfl
@[simp] theorem State.writeResult_window (r : Reg) (v : Word) (w : FlagWrite) :
    (s.writeResult r v w).window = s.window := rfl

/-! ### writeProduct -/

@[simp] theorem State.writeProduct_regs (r q : Reg) (p : BitVec 64) :
    (s.writeProduct r q p).regs = writeReg (writeReg s.regs r (p.extractLsb' 0 32)) q (p.extractLsb' 32 32) := rfl
@[simp] theorem State.writeProduct_pc (r q : Reg) (p : BitVec 64) : (s.writeProduct r q p).pc = s.pc := rfl
@[simp] theorem State.writeProduct_eipc (r q : Reg) (p : BitVec 64) : (s.writeProduct r q p).eipc = s.eipc := rfl
@[simp] theorem State.writeProduct_eipsw (r q : Reg) (p : BitVec 64) : (s.writeProduct r q p).eipsw = s.eipsw := rfl
@[simp] theorem State.writeProduct_fepc (r q : Reg) (p : BitVec 64) : (s.writeProduct r q p).fepc = s.fepc := rfl
@[simp] theorem State.writeProduct_fepsw (r q : Reg) (p : BitVec 64) : (s.writeProduct r q p).fepsw = s.fepsw := rfl
@[simp] theorem State.writeProduct_ecr (r q : Reg) (p : BitVec 64) : (s.writeProduct r q p).ecr = s.ecr := rfl
@[simp] theorem State.writeProduct_psw (r q : Reg) (p : BitVec 64) : (s.writeProduct r q p).psw = s.psw := rfl
@[simp] theorem State.writeProduct_ctpc (r q : Reg) (p : BitVec 64) : (s.writeProduct r q p).ctpc = s.ctpc := rfl
@[simp] theorem State.writeProduct_ctpsw (r q : Reg) (p : BitVec 64) : (s.writeProduct r q p).ctpsw = s.ctpsw := rfl
@[simp] theorem State.writeProduct_dbpc (r q : Reg) (p : BitVec 64) : (s.writeProduct r q p).dbpc = s.dbpc := rfl
@[simp] theorem State.writeProduct_dbpsw (r q : Reg) (p : BitVec 64) : (s.writeProduct r q p).dbpsw = s.dbpsw := rfl
@[simp] theorem State.writeProduct_ctbp (r q : Reg) (p : BitVec 64) : (s.writeProduct r q p).ctbp = s.ctbp := rfl
@[simp] theorem State.writeProduct_dir (r q : Reg) (p : BitVec 64) : (s.writeProduct r q p).dir = s.dir := rfl
@[simp] theorem State.writeProduct_halted (r q : Reg) (p : BitVec 64) :
    (s.writeProduct r q p).halted = s.halted := rfl
@[simp] theorem State.writeProduct_mem (r q : Reg) (p : BitVec 64) : (s.writeProduct r q p).mem = s.mem := rfl
@[simp] theorem State.writeProduct_product (r q : Reg) (p : BitVec 64) :
    (s.writeProduct r q p).product = s.product := rfl
@[simp] theorem State.writeProduct_req (r q : Reg) (p : BitVec 64) : (s.writeProduct r q p).req = s.req := rfl
@[simp] theorem State.writeProduct_script (r q : Reg) (p : BitVec 64) :
    (s.writeProduct r q p).script = s.script := rfl
@[simp] theorem State.writeProduct_draws (r q : Reg) (p : BitVec 64) : (s.writeProduct r q p).draws = s.draws := rfl
@[simp] theorem State.writeProduct_unsynced (r q : Reg) (p : BitVec 64) :
    (s.writeProduct r q p).unsynced = s.unsynced := rfl
@[simp] theorem State.writeProduct_window (r q : Reg) (p : BitVec 64) :
    (s.writeProduct r q p).window = s.window := rfl

/-! ### writeQuotient -/

@[simp] theorem State.writeQuotient_regs (r : Reg) (d : Division) :
    (s.writeQuotient r d).regs = writeReg s.regs r d.quotient := rfl
@[simp] theorem State.writeQuotient_pc (r : Reg) (d : Division) : (s.writeQuotient r d).pc = s.pc := rfl
@[simp] theorem State.writeQuotient_eipc (r : Reg) (d : Division) : (s.writeQuotient r d).eipc = s.eipc := rfl
@[simp] theorem State.writeQuotient_eipsw (r : Reg) (d : Division) : (s.writeQuotient r d).eipsw = s.eipsw := rfl
@[simp] theorem State.writeQuotient_fepc (r : Reg) (d : Division) : (s.writeQuotient r d).fepc = s.fepc := rfl
@[simp] theorem State.writeQuotient_fepsw (r : Reg) (d : Division) : (s.writeQuotient r d).fepsw = s.fepsw := rfl
@[simp] theorem State.writeQuotient_ecr (r : Reg) (d : Division) : (s.writeQuotient r d).ecr = s.ecr := rfl
@[simp] theorem State.writeQuotient_psw (r : Reg) (d : Division) :
    (s.writeQuotient r d).psw = d.flags.apply s.psw := rfl
@[simp] theorem State.writeQuotient_ctpc (r : Reg) (d : Division) : (s.writeQuotient r d).ctpc = s.ctpc := rfl
@[simp] theorem State.writeQuotient_ctpsw (r : Reg) (d : Division) : (s.writeQuotient r d).ctpsw = s.ctpsw := rfl
@[simp] theorem State.writeQuotient_dbpc (r : Reg) (d : Division) : (s.writeQuotient r d).dbpc = s.dbpc := rfl
@[simp] theorem State.writeQuotient_dbpsw (r : Reg) (d : Division) : (s.writeQuotient r d).dbpsw = s.dbpsw := rfl
@[simp] theorem State.writeQuotient_ctbp (r : Reg) (d : Division) : (s.writeQuotient r d).ctbp = s.ctbp := rfl
@[simp] theorem State.writeQuotient_dir (r : Reg) (d : Division) : (s.writeQuotient r d).dir = s.dir := rfl
@[simp] theorem State.writeQuotient_halted (r : Reg) (d : Division) : (s.writeQuotient r d).halted = s.halted := rfl
@[simp] theorem State.writeQuotient_mem (r : Reg) (d : Division) : (s.writeQuotient r d).mem = s.mem := rfl
@[simp] theorem State.writeQuotient_product (r : Reg) (d : Division) :
    (s.writeQuotient r d).product = s.product := rfl
@[simp] theorem State.writeQuotient_req (r : Reg) (d : Division) : (s.writeQuotient r d).req = s.req := rfl
@[simp] theorem State.writeQuotient_script (r : Reg) (d : Division) : (s.writeQuotient r d).script = s.script := rfl
@[simp] theorem State.writeQuotient_draws (r : Reg) (d : Division) :
    (s.writeQuotient r d).draws = s.draws + d.used := rfl
@[simp] theorem State.writeQuotient_unsynced (r : Reg) (d : Division) :
    (s.writeQuotient r d).unsynced = s.unsynced := rfl
@[simp] theorem State.writeQuotient_window (r : Reg) (d : Division) : (s.writeQuotient r d).window = s.window := rfl

/-! ### writeDivision -/

@[simp] theorem State.writeDivision_regs (r q : Reg) (d : Division) :
    (s.writeDivision r q d).regs = writeReg (writeReg s.regs r d.quotient) q d.remainder := rfl
@[simp] theorem State.writeDivision_pc (r q : Reg) (d : Division) : (s.writeDivision r q d).pc = s.pc := rfl
@[simp] theorem State.writeDivision_eipc (r q : Reg) (d : Division) : (s.writeDivision r q d).eipc = s.eipc := rfl
@[simp] theorem State.writeDivision_eipsw (r q : Reg) (d : Division) : (s.writeDivision r q d).eipsw = s.eipsw := rfl
@[simp] theorem State.writeDivision_fepc (r q : Reg) (d : Division) : (s.writeDivision r q d).fepc = s.fepc := rfl
@[simp] theorem State.writeDivision_fepsw (r q : Reg) (d : Division) : (s.writeDivision r q d).fepsw = s.fepsw := rfl
@[simp] theorem State.writeDivision_ecr (r q : Reg) (d : Division) : (s.writeDivision r q d).ecr = s.ecr := rfl
@[simp] theorem State.writeDivision_psw (r q : Reg) (d : Division) :
    (s.writeDivision r q d).psw = d.flags.apply s.psw := rfl
@[simp] theorem State.writeDivision_ctpc (r q : Reg) (d : Division) : (s.writeDivision r q d).ctpc = s.ctpc := rfl
@[simp] theorem State.writeDivision_ctpsw (r q : Reg) (d : Division) : (s.writeDivision r q d).ctpsw = s.ctpsw := rfl
@[simp] theorem State.writeDivision_dbpc (r q : Reg) (d : Division) : (s.writeDivision r q d).dbpc = s.dbpc := rfl
@[simp] theorem State.writeDivision_dbpsw (r q : Reg) (d : Division) : (s.writeDivision r q d).dbpsw = s.dbpsw := rfl
@[simp] theorem State.writeDivision_ctbp (r q : Reg) (d : Division) : (s.writeDivision r q d).ctbp = s.ctbp := rfl
@[simp] theorem State.writeDivision_dir (r q : Reg) (d : Division) : (s.writeDivision r q d).dir = s.dir := rfl
@[simp] theorem State.writeDivision_halted (r q : Reg) (d : Division) :
    (s.writeDivision r q d).halted = s.halted := rfl
@[simp] theorem State.writeDivision_mem (r q : Reg) (d : Division) : (s.writeDivision r q d).mem = s.mem := rfl
@[simp] theorem State.writeDivision_product (r q : Reg) (d : Division) :
    (s.writeDivision r q d).product = s.product := rfl
@[simp] theorem State.writeDivision_req (r q : Reg) (d : Division) : (s.writeDivision r q d).req = s.req := rfl
@[simp] theorem State.writeDivision_script (r q : Reg) (d : Division) :
    (s.writeDivision r q d).script = s.script := rfl
@[simp] theorem State.writeDivision_draws (r q : Reg) (d : Division) :
    (s.writeDivision r q d).draws = s.draws + d.used := rfl
@[simp] theorem State.writeDivision_unsynced (r q : Reg) (d : Division) :
    (s.writeDivision r q d).unsynced = s.unsynced := rfl
@[simp] theorem State.writeDivision_window (r q : Reg) (d : Division) :
    (s.writeDivision r q d).window = s.window := rfl

/-! ### returnTo -/

@[simp] theorem State.returnTo_regs (pc psw : Word) : (s.returnTo pc psw).regs = s.regs := rfl
@[simp] theorem State.returnTo_pc (pc psw : Word) : (s.returnTo pc psw).pc = pcMask pc := rfl
@[simp] theorem State.returnTo_eipc (pc psw : Word) : (s.returnTo pc psw).eipc = s.eipc := rfl
@[simp] theorem State.returnTo_eipsw (pc psw : Word) : (s.returnTo pc psw).eipsw = s.eipsw := rfl
@[simp] theorem State.returnTo_fepc (pc psw : Word) : (s.returnTo pc psw).fepc = s.fepc := rfl
@[simp] theorem State.returnTo_fepsw (pc psw : Word) : (s.returnTo pc psw).fepsw = s.fepsw := rfl
@[simp] theorem State.returnTo_ecr (pc psw : Word) : (s.returnTo pc psw).ecr = s.ecr := rfl
@[simp] theorem State.returnTo_psw (pc psw : Word) : (s.returnTo pc psw).psw = pswBits psw := rfl
@[simp] theorem State.returnTo_ctpc (pc psw : Word) : (s.returnTo pc psw).ctpc = s.ctpc := rfl
@[simp] theorem State.returnTo_ctpsw (pc psw : Word) : (s.returnTo pc psw).ctpsw = s.ctpsw := rfl
@[simp] theorem State.returnTo_dbpc (pc psw : Word) : (s.returnTo pc psw).dbpc = s.dbpc := rfl
@[simp] theorem State.returnTo_dbpsw (pc psw : Word) : (s.returnTo pc psw).dbpsw = s.dbpsw := rfl
@[simp] theorem State.returnTo_ctbp (pc psw : Word) : (s.returnTo pc psw).ctbp = s.ctbp := rfl
@[simp] theorem State.returnTo_dir (pc psw : Word) : (s.returnTo pc psw).dir = s.dir := rfl
@[simp] theorem State.returnTo_halted (pc psw : Word) : (s.returnTo pc psw).halted = s.halted := rfl
@[simp] theorem State.returnTo_mem (pc psw : Word) : (s.returnTo pc psw).mem = s.mem := rfl
@[simp] theorem State.returnTo_product (pc psw : Word) : (s.returnTo pc psw).product = s.product := rfl
@[simp] theorem State.returnTo_req (pc psw : Word) : (s.returnTo pc psw).req = s.req := rfl
@[simp] theorem State.returnTo_script (pc psw : Word) : (s.returnTo pc psw).script = s.script := rfl
@[simp] theorem State.returnTo_draws (pc psw : Word) : (s.returnTo pc psw).draws = s.draws := rfl
@[simp] theorem State.returnTo_unsynced (pc psw : Word) :
    (s.returnTo pc psw).unsynced = s.unsynced.filter fun c => s.product.kindAt c != .ram := rfl
@[simp] theorem State.returnTo_window (pc psw : Word) : (s.returnTo pc psw).window = s.window := rfl

/-! ### testBit -/

@[simp] theorem State.testBit_regs (a : Word) (n : Nat) : (s.testBit a n).regs = s.regs := rfl
@[simp] theorem State.testBit_pc (a : Word) (n : Nat) : (s.testBit a n).pc = s.pc := rfl
@[simp] theorem State.testBit_eipc (a : Word) (n : Nat) : (s.testBit a n).eipc = s.eipc := rfl
@[simp] theorem State.testBit_eipsw (a : Word) (n : Nat) : (s.testBit a n).eipsw = s.eipsw := rfl
@[simp] theorem State.testBit_fepc (a : Word) (n : Nat) : (s.testBit a n).fepc = s.fepc := rfl
@[simp] theorem State.testBit_fepsw (a : Word) (n : Nat) : (s.testBit a n).fepsw = s.fepsw := rfl
@[simp] theorem State.testBit_ecr (a : Word) (n : Nat) : (s.testBit a n).ecr = s.ecr := rfl
@[simp] theorem State.testBit_psw (a : Word) (n : Nat) :
    (s.testBit a n).psw = (bitFlags ((s.loadByte a).getLsbD n)).apply s.psw := rfl
@[simp] theorem State.testBit_ctpc (a : Word) (n : Nat) : (s.testBit a n).ctpc = s.ctpc := rfl
@[simp] theorem State.testBit_ctpsw (a : Word) (n : Nat) : (s.testBit a n).ctpsw = s.ctpsw := rfl
@[simp] theorem State.testBit_dbpc (a : Word) (n : Nat) : (s.testBit a n).dbpc = s.dbpc := rfl
@[simp] theorem State.testBit_dbpsw (a : Word) (n : Nat) : (s.testBit a n).dbpsw = s.dbpsw := rfl
@[simp] theorem State.testBit_ctbp (a : Word) (n : Nat) : (s.testBit a n).ctbp = s.ctbp := rfl
@[simp] theorem State.testBit_dir (a : Word) (n : Nat) : (s.testBit a n).dir = s.dir := rfl
@[simp] theorem State.testBit_halted (a : Word) (n : Nat) : (s.testBit a n).halted = s.halted := rfl
@[simp] theorem State.testBit_mem (a : Word) (n : Nat) : (s.testBit a n).mem = s.mem := rfl
@[simp] theorem State.testBit_product (a : Word) (n : Nat) : (s.testBit a n).product = s.product := rfl
@[simp] theorem State.testBit_req (a : Word) (n : Nat) : (s.testBit a n).req = s.req := rfl
@[simp] theorem State.testBit_script (a : Word) (n : Nat) : (s.testBit a n).script = s.script := rfl
@[simp] theorem State.testBit_draws (a : Word) (n : Nat) :
    (s.testBit a n).draws = if s.product.plainData a 1 then s.draws else s.draws + 1 := rfl
@[simp] theorem State.testBit_unsynced (a : Word) (n : Nat) : (s.testBit a n).unsynced = s.unsynced := rfl
@[simp] theorem State.testBit_window (a : Word) (n : Nat) : (s.testBit a n).window = s.window := rfl

/-! ### modifyBit -/

@[simp] theorem State.modifyBit_regs (a : Word) (n : Nat) (f : Bool → Bool) : (s.modifyBit a n f).regs = s.regs := rfl
@[simp] theorem State.modifyBit_pc (a : Word) (n : Nat) (f : Bool → Bool) : (s.modifyBit a n f).pc = s.pc := rfl
@[simp] theorem State.modifyBit_eipc (a : Word) (n : Nat) (f : Bool → Bool) : (s.modifyBit a n f).eipc = s.eipc := rfl
@[simp] theorem State.modifyBit_eipsw (a : Word) (n : Nat) (f : Bool → Bool) :
    (s.modifyBit a n f).eipsw = s.eipsw := rfl
@[simp] theorem State.modifyBit_fepc (a : Word) (n : Nat) (f : Bool → Bool) : (s.modifyBit a n f).fepc = s.fepc := rfl
@[simp] theorem State.modifyBit_fepsw (a : Word) (n : Nat) (f : Bool → Bool) :
    (s.modifyBit a n f).fepsw = s.fepsw := rfl
@[simp] theorem State.modifyBit_ecr (a : Word) (n : Nat) (f : Bool → Bool) : (s.modifyBit a n f).ecr = s.ecr := rfl
@[simp] theorem State.modifyBit_psw (a : Word) (n : Nat) (f : Bool → Bool) :
    (s.modifyBit a n f).psw = (bitFlags ((s.loadByte a).getLsbD n)).apply s.psw := rfl
@[simp] theorem State.modifyBit_ctpc (a : Word) (n : Nat) (f : Bool → Bool) : (s.modifyBit a n f).ctpc = s.ctpc := rfl
@[simp] theorem State.modifyBit_ctpsw (a : Word) (n : Nat) (f : Bool → Bool) :
    (s.modifyBit a n f).ctpsw = s.ctpsw := rfl
@[simp] theorem State.modifyBit_dbpc (a : Word) (n : Nat) (f : Bool → Bool) : (s.modifyBit a n f).dbpc = s.dbpc := rfl
@[simp] theorem State.modifyBit_dbpsw (a : Word) (n : Nat) (f : Bool → Bool) :
    (s.modifyBit a n f).dbpsw = s.dbpsw := rfl
@[simp] theorem State.modifyBit_ctbp (a : Word) (n : Nat) (f : Bool → Bool) : (s.modifyBit a n f).ctbp = s.ctbp := rfl
@[simp] theorem State.modifyBit_dir (a : Word) (n : Nat) (f : Bool → Bool) : (s.modifyBit a n f).dir = s.dir := rfl
@[simp] theorem State.modifyBit_halted (a : Word) (n : Nat) (f : Bool → Bool) :
    (s.modifyBit a n f).halted = s.halted := rfl
@[simp] theorem State.modifyBit_mem (a : Word) (n : Nat) (f : Bool → Bool) :
    (s.modifyBit a n f).mem = s.product.writeCell (s.product.cell a) (withBit (s.loadByte a) n (f ((s.loadByte a).getLsbD n))) s.mem := rfl
@[simp] theorem State.modifyBit_product (a : Word) (n : Nat) (f : Bool → Bool) :
    (s.modifyBit a n f).product = s.product := rfl
@[simp] theorem State.modifyBit_req (a : Word) (n : Nat) (f : Bool → Bool) : (s.modifyBit a n f).req = s.req := rfl
@[simp] theorem State.modifyBit_script (a : Word) (n : Nat) (f : Bool → Bool) :
    (s.modifyBit a n f).script = s.script := rfl
@[simp] theorem State.modifyBit_draws (a : Word) (n : Nat) (f : Bool → Bool) :
    (s.modifyBit a n f).draws = if s.product.plainData a 1 then s.draws else s.draws + 1 := rfl
@[simp] theorem State.modifyBit_unsynced (a : Word) (n : Nat) (f : Bool → Bool) :
    (s.modifyBit a n f).unsynced = s.product.cell a :: s.unsynced := rfl
@[simp] theorem State.modifyBit_window (a : Word) (n : Nat) (f : Bool → Bool) :
    (s.modifyBit a n f).window = s.window := rfl

/-! ### storeByte -/

@[simp] theorem State.storeByte_regs (a : Word) (v : Byte) : (s.storeByte a v).regs = s.regs := rfl
@[simp] theorem State.storeByte_pc (a : Word) (v : Byte) : (s.storeByte a v).pc = s.pc := rfl
@[simp] theorem State.storeByte_eipc (a : Word) (v : Byte) : (s.storeByte a v).eipc = s.eipc := rfl
@[simp] theorem State.storeByte_eipsw (a : Word) (v : Byte) : (s.storeByte a v).eipsw = s.eipsw := rfl
@[simp] theorem State.storeByte_fepc (a : Word) (v : Byte) : (s.storeByte a v).fepc = s.fepc := rfl
@[simp] theorem State.storeByte_fepsw (a : Word) (v : Byte) : (s.storeByte a v).fepsw = s.fepsw := rfl
@[simp] theorem State.storeByte_ecr (a : Word) (v : Byte) : (s.storeByte a v).ecr = s.ecr := rfl
@[simp] theorem State.storeByte_psw (a : Word) (v : Byte) : (s.storeByte a v).psw = s.psw := rfl
@[simp] theorem State.storeByte_ctpc (a : Word) (v : Byte) : (s.storeByte a v).ctpc = s.ctpc := rfl
@[simp] theorem State.storeByte_ctpsw (a : Word) (v : Byte) : (s.storeByte a v).ctpsw = s.ctpsw := rfl
@[simp] theorem State.storeByte_dbpc (a : Word) (v : Byte) : (s.storeByte a v).dbpc = s.dbpc := rfl
@[simp] theorem State.storeByte_dbpsw (a : Word) (v : Byte) : (s.storeByte a v).dbpsw = s.dbpsw := rfl
@[simp] theorem State.storeByte_ctbp (a : Word) (v : Byte) : (s.storeByte a v).ctbp = s.ctbp := rfl
@[simp] theorem State.storeByte_dir (a : Word) (v : Byte) : (s.storeByte a v).dir = s.dir := rfl
@[simp] theorem State.storeByte_halted (a : Word) (v : Byte) : (s.storeByte a v).halted = s.halted := rfl
@[simp] theorem State.storeByte_mem (a : Word) (v : Byte) :
    (s.storeByte a v).mem = s.product.writeCell (s.product.cell a) v s.mem := rfl
@[simp] theorem State.storeByte_product (a : Word) (v : Byte) : (s.storeByte a v).product = s.product := rfl
@[simp] theorem State.storeByte_req (a : Word) (v : Byte) : (s.storeByte a v).req = s.req := rfl
@[simp] theorem State.storeByte_script (a : Word) (v : Byte) : (s.storeByte a v).script = s.script := rfl
@[simp] theorem State.storeByte_draws (a : Word) (v : Byte) : (s.storeByte a v).draws = s.draws := rfl
@[simp] theorem State.storeByte_unsynced (a : Word) (v : Byte) :
    (s.storeByte a v).unsynced = s.product.cell a :: s.unsynced := rfl
@[simp] theorem State.storeByte_window (a : Word) (v : Byte) : (s.storeByte a v).window = s.window := rfl

/-! ### storeHalf -/

@[simp] theorem State.storeHalf_regs (a : Word) (v : Half) :
    (s.storeHalf a v).regs = s.regs := by
  simp only [State.storeHalf, State.writeByte_regs]
@[simp] theorem State.storeHalf_pc (a : Word) (v : Half) :
    (s.storeHalf a v).pc = s.pc := by
  simp only [State.storeHalf, State.writeByte_pc]
@[simp] theorem State.storeHalf_eipc (a : Word) (v : Half) :
    (s.storeHalf a v).eipc = s.eipc := by
  simp only [State.storeHalf, State.writeByte_eipc]
@[simp] theorem State.storeHalf_eipsw (a : Word) (v : Half) :
    (s.storeHalf a v).eipsw = s.eipsw := by
  simp only [State.storeHalf, State.writeByte_eipsw]
@[simp] theorem State.storeHalf_fepc (a : Word) (v : Half) :
    (s.storeHalf a v).fepc = s.fepc := by
  simp only [State.storeHalf, State.writeByte_fepc]
@[simp] theorem State.storeHalf_fepsw (a : Word) (v : Half) :
    (s.storeHalf a v).fepsw = s.fepsw := by
  simp only [State.storeHalf, State.writeByte_fepsw]
@[simp] theorem State.storeHalf_ecr (a : Word) (v : Half) :
    (s.storeHalf a v).ecr = s.ecr := by
  simp only [State.storeHalf, State.writeByte_ecr]
@[simp] theorem State.storeHalf_psw (a : Word) (v : Half) :
    (s.storeHalf a v).psw = s.psw := by
  simp only [State.storeHalf, State.writeByte_psw]
@[simp] theorem State.storeHalf_ctpc (a : Word) (v : Half) :
    (s.storeHalf a v).ctpc = s.ctpc := by
  simp only [State.storeHalf, State.writeByte_ctpc]
@[simp] theorem State.storeHalf_ctpsw (a : Word) (v : Half) :
    (s.storeHalf a v).ctpsw = s.ctpsw := by
  simp only [State.storeHalf, State.writeByte_ctpsw]
@[simp] theorem State.storeHalf_dbpc (a : Word) (v : Half) :
    (s.storeHalf a v).dbpc = s.dbpc := by
  simp only [State.storeHalf, State.writeByte_dbpc]
@[simp] theorem State.storeHalf_dbpsw (a : Word) (v : Half) :
    (s.storeHalf a v).dbpsw = s.dbpsw := by
  simp only [State.storeHalf, State.writeByte_dbpsw]
@[simp] theorem State.storeHalf_ctbp (a : Word) (v : Half) :
    (s.storeHalf a v).ctbp = s.ctbp := by
  simp only [State.storeHalf, State.writeByte_ctbp]
@[simp] theorem State.storeHalf_dir (a : Word) (v : Half) :
    (s.storeHalf a v).dir = s.dir := by
  simp only [State.storeHalf, State.writeByte_dir]
@[simp] theorem State.storeHalf_halted (a : Word) (v : Half) :
    (s.storeHalf a v).halted = s.halted := by
  simp only [State.storeHalf, State.writeByte_halted]
@[simp] theorem State.storeHalf_product (a : Word) (v : Half) :
    (s.storeHalf a v).product = s.product := by
  simp only [State.storeHalf, State.writeByte_product]
@[simp] theorem State.storeHalf_req (a : Word) (v : Half) :
    (s.storeHalf a v).req = s.req := by
  simp only [State.storeHalf, State.writeByte_req]
@[simp] theorem State.storeHalf_script (a : Word) (v : Half) :
    (s.storeHalf a v).script = s.script := by
  simp only [State.storeHalf, State.writeByte_script]
@[simp] theorem State.storeHalf_draws (a : Word) (v : Half) :
    (s.storeHalf a v).draws = s.draws := by
  simp only [State.storeHalf, State.writeByte_draws]
@[simp] theorem State.storeHalf_window (a : Word) (v : Half) :
    (s.storeHalf a v).window = s.window := by
  simp only [State.storeHalf, State.writeByte_window]

/-! ### storeWord -/

@[simp] theorem State.storeWord_regs (a : Word) (v : Word) :
    (s.storeWord a v).regs = s.regs := by
  simp only [State.storeWord, State.writeByte_regs]
@[simp] theorem State.storeWord_pc (a : Word) (v : Word) :
    (s.storeWord a v).pc = s.pc := by
  simp only [State.storeWord, State.writeByte_pc]
@[simp] theorem State.storeWord_eipc (a : Word) (v : Word) :
    (s.storeWord a v).eipc = s.eipc := by
  simp only [State.storeWord, State.writeByte_eipc]
@[simp] theorem State.storeWord_eipsw (a : Word) (v : Word) :
    (s.storeWord a v).eipsw = s.eipsw := by
  simp only [State.storeWord, State.writeByte_eipsw]
@[simp] theorem State.storeWord_fepc (a : Word) (v : Word) :
    (s.storeWord a v).fepc = s.fepc := by
  simp only [State.storeWord, State.writeByte_fepc]
@[simp] theorem State.storeWord_fepsw (a : Word) (v : Word) :
    (s.storeWord a v).fepsw = s.fepsw := by
  simp only [State.storeWord, State.writeByte_fepsw]
@[simp] theorem State.storeWord_ecr (a : Word) (v : Word) :
    (s.storeWord a v).ecr = s.ecr := by
  simp only [State.storeWord, State.writeByte_ecr]
@[simp] theorem State.storeWord_psw (a : Word) (v : Word) :
    (s.storeWord a v).psw = s.psw := by
  simp only [State.storeWord, State.writeByte_psw]
@[simp] theorem State.storeWord_ctpc (a : Word) (v : Word) :
    (s.storeWord a v).ctpc = s.ctpc := by
  simp only [State.storeWord, State.writeByte_ctpc]
@[simp] theorem State.storeWord_ctpsw (a : Word) (v : Word) :
    (s.storeWord a v).ctpsw = s.ctpsw := by
  simp only [State.storeWord, State.writeByte_ctpsw]
@[simp] theorem State.storeWord_dbpc (a : Word) (v : Word) :
    (s.storeWord a v).dbpc = s.dbpc := by
  simp only [State.storeWord, State.writeByte_dbpc]
@[simp] theorem State.storeWord_dbpsw (a : Word) (v : Word) :
    (s.storeWord a v).dbpsw = s.dbpsw := by
  simp only [State.storeWord, State.writeByte_dbpsw]
@[simp] theorem State.storeWord_ctbp (a : Word) (v : Word) :
    (s.storeWord a v).ctbp = s.ctbp := by
  simp only [State.storeWord, State.writeByte_ctbp]
@[simp] theorem State.storeWord_dir (a : Word) (v : Word) :
    (s.storeWord a v).dir = s.dir := by
  simp only [State.storeWord, State.writeByte_dir]
@[simp] theorem State.storeWord_halted (a : Word) (v : Word) :
    (s.storeWord a v).halted = s.halted := by
  simp only [State.storeWord, State.writeByte_halted]
@[simp] theorem State.storeWord_product (a : Word) (v : Word) :
    (s.storeWord a v).product = s.product := by
  simp only [State.storeWord, State.writeByte_product]
@[simp] theorem State.storeWord_req (a : Word) (v : Word) :
    (s.storeWord a v).req = s.req := by
  simp only [State.storeWord, State.writeByte_req]
@[simp] theorem State.storeWord_script (a : Word) (v : Word) :
    (s.storeWord a v).script = s.script := by
  simp only [State.storeWord, State.writeByte_script]
@[simp] theorem State.storeWord_draws (a : Word) (v : Word) :
    (s.storeWord a v).draws = s.draws := by
  simp only [State.storeWord, State.writeByte_draws]
@[simp] theorem State.storeWord_window (a : Word) (v : Word) :
    (s.storeWord a v).window = s.window := by
  simp only [State.storeWord, State.writeByte_window]

/-! ### latch -/

@[simp] theorem State.latch_regs (b : Boundary) : (s.latch b).regs = s.regs := rfl
@[simp] theorem State.latch_pc (b : Boundary) : (s.latch b).pc = s.pc := rfl
@[simp] theorem State.latch_eipc (b : Boundary) : (s.latch b).eipc = s.eipc := rfl
@[simp] theorem State.latch_eipsw (b : Boundary) : (s.latch b).eipsw = s.eipsw := rfl
@[simp] theorem State.latch_fepc (b : Boundary) : (s.latch b).fepc = s.fepc := rfl
@[simp] theorem State.latch_fepsw (b : Boundary) : (s.latch b).fepsw = s.fepsw := rfl
@[simp] theorem State.latch_ecr (b : Boundary) : (s.latch b).ecr = s.ecr := rfl
@[simp] theorem State.latch_psw (b : Boundary) : (s.latch b).psw = s.psw := rfl
@[simp] theorem State.latch_ctpc (b : Boundary) : (s.latch b).ctpc = s.ctpc := rfl
@[simp] theorem State.latch_ctpsw (b : Boundary) : (s.latch b).ctpsw = s.ctpsw := rfl
@[simp] theorem State.latch_dbpc (b : Boundary) : (s.latch b).dbpc = s.dbpc := rfl
@[simp] theorem State.latch_dbpsw (b : Boundary) : (s.latch b).dbpsw = s.dbpsw := rfl
@[simp] theorem State.latch_ctbp (b : Boundary) : (s.latch b).ctbp = s.ctbp := rfl
@[simp] theorem State.latch_dir (b : Boundary) : (s.latch b).dir = s.dir := rfl
@[simp] theorem State.latch_halted (b : Boundary) : (s.latch b).halted = s.halted := rfl
@[simp] theorem State.latch_mem (b : Boundary) : (s.latch b).mem = s.mem := rfl
@[simp] theorem State.latch_product (b : Boundary) : (s.latch b).product = s.product := rfl
@[simp] theorem State.latch_req (b : Boundary) : (s.latch b).req = s.req.latch b s.product := rfl
@[simp] theorem State.latch_script (b : Boundary) : (s.latch b).script = s.script.tail := rfl
@[simp] theorem State.latch_draws (b : Boundary) : (s.latch b).draws = s.draws := rfl
@[simp] theorem State.latch_unsynced (b : Boundary) : (s.latch b).unsynced = s.unsynced := rfl
@[simp] theorem State.latch_window (b : Boundary) : (s.latch b).window = s.window := rfl

/-! ### resetEntry -/

@[simp] theorem State.resetEntry_regs : (s.resetEntry).regs = State.reset.regs := rfl
@[simp] theorem State.resetEntry_pc : (s.resetEntry).pc = 0#32 := rfl
@[simp] theorem State.resetEntry_eipc : (s.resetEntry).eipc = 0#32 := rfl
@[simp] theorem State.resetEntry_eipsw : (s.resetEntry).eipsw = 0#32 := rfl
@[simp] theorem State.resetEntry_fepc : (s.resetEntry).fepc = 0#32 := rfl
@[simp] theorem State.resetEntry_fepsw : (s.resetEntry).fepsw = 0#32 := rfl
@[simp] theorem State.resetEntry_ecr : (s.resetEntry).ecr = 0#32 := rfl
@[simp] theorem State.resetEntry_psw : (s.resetEntry).psw = 0x20#32 := rfl
@[simp] theorem State.resetEntry_ctpc : (s.resetEntry).ctpc = 0#32 := rfl
@[simp] theorem State.resetEntry_ctpsw : (s.resetEntry).ctpsw = 0#32 := rfl
@[simp] theorem State.resetEntry_dbpc : (s.resetEntry).dbpc = 0#32 := rfl
@[simp] theorem State.resetEntry_dbpsw : (s.resetEntry).dbpsw = 0#32 := rfl
@[simp] theorem State.resetEntry_ctbp : (s.resetEntry).ctbp = 0#32 := rfl
@[simp] theorem State.resetEntry_dir : (s.resetEntry).dir = 0#32 := rfl
@[simp] theorem State.resetEntry_halted : (s.resetEntry).halted = false := rfl
@[simp] theorem State.resetEntry_mem : (s.resetEntry).mem = s.mem := rfl
@[simp] theorem State.resetEntry_product : (s.resetEntry).product = s.product := rfl
@[simp] theorem State.resetEntry_req : (s.resetEntry).req = s.req := rfl
@[simp] theorem State.resetEntry_script : (s.resetEntry).script = s.script := rfl
@[simp] theorem State.resetEntry_draws : (s.resetEntry).draws = s.draws := rfl
@[simp] theorem State.resetEntry_unsynced : (s.resetEntry).unsynced = [] := rfl
@[simp] theorem State.resetEntry_window : (s.resetEntry).window = [] := rfl

/-! ### takeException -/

@[simp] theorem State.takeException_regs (e : Entry) : (s.takeException e).regs = s.regs := rfl
@[simp] theorem State.takeException_pc (e : Entry) : (s.takeException e).pc = pcMask e.handler := rfl
@[simp] theorem State.takeException_eipc (e : Entry) :
    (s.takeException e).eipc = if e.pair = .ei then e.restorePC else s.eipc := rfl
@[simp] theorem State.takeException_eipsw (e : Entry) :
    (s.takeException e).eipsw = if e.pair = .ei then s.psw else s.eipsw := rfl
@[simp] theorem State.takeException_fepc (e : Entry) :
    (s.takeException e).fepc = if e.pair = .fe then e.restorePC else s.fepc := rfl
@[simp] theorem State.takeException_fepsw (e : Entry) :
    (s.takeException e).fepsw = if e.pair = .fe then s.psw else s.fepsw := rfl
@[simp] theorem State.takeException_ecr (e : Entry) : (s.takeException e).ecr = writeCause e.cause s.ecr := rfl
@[simp] theorem State.takeException_psw (e : Entry) : (s.takeException e).psw = enterPSW e.setsNP e.ep s.psw := rfl
@[simp] theorem State.takeException_ctpc (e : Entry) : (s.takeException e).ctpc = s.ctpc := rfl
@[simp] theorem State.takeException_ctpsw (e : Entry) : (s.takeException e).ctpsw = s.ctpsw := rfl
@[simp] theorem State.takeException_dbpc (e : Entry) :
    (s.takeException e).dbpc = if e.pair = .db then e.restorePC else s.dbpc := rfl
@[simp] theorem State.takeException_dbpsw (e : Entry) :
    (s.takeException e).dbpsw = if e.pair = .db then s.psw else s.dbpsw := rfl
@[simp] theorem State.takeException_ctbp (e : Entry) : (s.takeException e).ctbp = s.ctbp := rfl
@[simp] theorem State.takeException_dir (e : Entry) :
    (s.takeException e).dir = if e.pair = .db then withDM true s.dir else s.dir := rfl
@[simp] theorem State.takeException_halted (e : Entry) : (s.takeException e).halted = s.halted := rfl
@[simp] theorem State.takeException_mem (e : Entry) : (s.takeException e).mem = s.mem := rfl
@[simp] theorem State.takeException_product (e : Entry) : (s.takeException e).product = s.product := rfl
@[simp] theorem State.takeException_req (e : Entry) : (s.takeException e).req = s.req := rfl
@[simp] theorem State.takeException_script (e : Entry) : (s.takeException e).script = s.script := rfl
@[simp] theorem State.takeException_draws (e : Entry) : (s.takeException e).draws = s.draws := rfl
@[simp] theorem State.takeException_unsynced (e : Entry) :
    (s.takeException e).unsynced = s.unsynced.filter fun c => s.product.kindAt c != .ram := rfl
@[simp] theorem State.takeException_window (e : Entry) : (s.takeException e).window = s.window := rfl

/-! ### pushList and popList -/

/-- What a word store can change. -/
theorem State.storeWord_shape (a v : Word) : ∃ m u, s.storeWord a v = { s with mem := m, unsynced := u } := by
  have one : ∀ (t : State) (a : Word) (v : Byte), ∃ m u, t.writeByte a v = { t with mem := m, unsynced := u } :=
    fun t a v => ⟨_, _, rfl⟩
  obtain ⟨_, _, h0⟩ := one s a (byteOf v 0)
  obtain ⟨_, _, h1⟩ := one (s.writeByte a (byteOf v 0)) (a + 1#32) (byteOf v 1)
  obtain ⟨_, _, h2⟩ := one ((s.writeByte a (byteOf v 0)).writeByte (a + 1#32) (byteOf v 1)) (a + 2#32) (byteOf v 2)
  obtain ⟨m, u, h3⟩ := one (((s.writeByte a (byteOf v 0)).writeByte (a + 1#32) (byteOf v 1)).writeByte (a + 2#32)
    (byteOf v 2)) (a + 3#32) (byteOf v 3)
  exact ⟨m, u, by rw [State.storeWord, h3, h2, h1, h0]⟩

/-- What pushing can change. -/
theorem State.pushList_shape (l : List Reg) (a : Word) :
    ∃ m u, s.pushList l a = { s with mem := m, unsynced := u } := by
  induction l generalizing a s with
  | nil => exact ⟨s.mem, s.unsynced, rfl⟩
  | cons r l ih =>
    obtain ⟨m, u, h⟩ := ih (s.storeWord (stackAddr (a - 4#32)) (s.gpr r)) (a - 4#32)
    obtain ⟨m', u', h'⟩ := s.storeWord_shape (stackAddr (a - 4#32)) (s.gpr r)
    refine ⟨m, u, ?_⟩
    rw [State.pushList, h, h']

/-- What popping can change. -/
theorem State.popList_shape (l : List Reg) (a : Word) :
    ∃ g d, s.popList l a = { s with regs := g, draws := d } := by
  induction l generalizing a s with
  | nil => exact ⟨s.regs, s.draws, rfl⟩
  | cons r l ih =>
    obtain ⟨g, d, h⟩ := ih ((s.afterRead 4 (stackAddr a)).setReg r (s.loadWord (stackAddr a))) (a + 4#32)
    exact ⟨g, d, h⟩

@[simp] theorem State.pushList_regs (l : List Reg) (a : Word) :
    (s.pushList l a).regs = s.regs := by
  obtain ⟨m, u, h⟩ := s.pushList_shape l a; rw [h]
@[simp] theorem State.pushList_pc (l : List Reg) (a : Word) :
    (s.pushList l a).pc = s.pc := by
  obtain ⟨m, u, h⟩ := s.pushList_shape l a; rw [h]
@[simp] theorem State.pushList_eipc (l : List Reg) (a : Word) :
    (s.pushList l a).eipc = s.eipc := by
  obtain ⟨m, u, h⟩ := s.pushList_shape l a; rw [h]
@[simp] theorem State.pushList_eipsw (l : List Reg) (a : Word) :
    (s.pushList l a).eipsw = s.eipsw := by
  obtain ⟨m, u, h⟩ := s.pushList_shape l a; rw [h]
@[simp] theorem State.pushList_fepc (l : List Reg) (a : Word) :
    (s.pushList l a).fepc = s.fepc := by
  obtain ⟨m, u, h⟩ := s.pushList_shape l a; rw [h]
@[simp] theorem State.pushList_fepsw (l : List Reg) (a : Word) :
    (s.pushList l a).fepsw = s.fepsw := by
  obtain ⟨m, u, h⟩ := s.pushList_shape l a; rw [h]
@[simp] theorem State.pushList_ecr (l : List Reg) (a : Word) :
    (s.pushList l a).ecr = s.ecr := by
  obtain ⟨m, u, h⟩ := s.pushList_shape l a; rw [h]
@[simp] theorem State.pushList_psw (l : List Reg) (a : Word) :
    (s.pushList l a).psw = s.psw := by
  obtain ⟨m, u, h⟩ := s.pushList_shape l a; rw [h]
@[simp] theorem State.pushList_ctpc (l : List Reg) (a : Word) :
    (s.pushList l a).ctpc = s.ctpc := by
  obtain ⟨m, u, h⟩ := s.pushList_shape l a; rw [h]
@[simp] theorem State.pushList_ctpsw (l : List Reg) (a : Word) :
    (s.pushList l a).ctpsw = s.ctpsw := by
  obtain ⟨m, u, h⟩ := s.pushList_shape l a; rw [h]
@[simp] theorem State.pushList_dbpc (l : List Reg) (a : Word) :
    (s.pushList l a).dbpc = s.dbpc := by
  obtain ⟨m, u, h⟩ := s.pushList_shape l a; rw [h]
@[simp] theorem State.pushList_dbpsw (l : List Reg) (a : Word) :
    (s.pushList l a).dbpsw = s.dbpsw := by
  obtain ⟨m, u, h⟩ := s.pushList_shape l a; rw [h]
@[simp] theorem State.pushList_ctbp (l : List Reg) (a : Word) :
    (s.pushList l a).ctbp = s.ctbp := by
  obtain ⟨m, u, h⟩ := s.pushList_shape l a; rw [h]
@[simp] theorem State.pushList_dir (l : List Reg) (a : Word) :
    (s.pushList l a).dir = s.dir := by
  obtain ⟨m, u, h⟩ := s.pushList_shape l a; rw [h]
@[simp] theorem State.pushList_halted (l : List Reg) (a : Word) :
    (s.pushList l a).halted = s.halted := by
  obtain ⟨m, u, h⟩ := s.pushList_shape l a; rw [h]
@[simp] theorem State.pushList_product (l : List Reg) (a : Word) :
    (s.pushList l a).product = s.product := by
  obtain ⟨m, u, h⟩ := s.pushList_shape l a; rw [h]
@[simp] theorem State.pushList_req (l : List Reg) (a : Word) :
    (s.pushList l a).req = s.req := by
  obtain ⟨m, u, h⟩ := s.pushList_shape l a; rw [h]
@[simp] theorem State.pushList_script (l : List Reg) (a : Word) :
    (s.pushList l a).script = s.script := by
  obtain ⟨m, u, h⟩ := s.pushList_shape l a; rw [h]
@[simp] theorem State.pushList_draws (l : List Reg) (a : Word) :
    (s.pushList l a).draws = s.draws := by
  obtain ⟨m, u, h⟩ := s.pushList_shape l a; rw [h]
@[simp] theorem State.pushList_window (l : List Reg) (a : Word) :
    (s.pushList l a).window = s.window := by
  obtain ⟨m, u, h⟩ := s.pushList_shape l a; rw [h]
@[simp] theorem State.popList_pc (l : List Reg) (a : Word) :
    (s.popList l a).pc = s.pc := by
  obtain ⟨g, d, h⟩ := s.popList_shape l a; rw [h]
@[simp] theorem State.popList_eipc (l : List Reg) (a : Word) :
    (s.popList l a).eipc = s.eipc := by
  obtain ⟨g, d, h⟩ := s.popList_shape l a; rw [h]
@[simp] theorem State.popList_eipsw (l : List Reg) (a : Word) :
    (s.popList l a).eipsw = s.eipsw := by
  obtain ⟨g, d, h⟩ := s.popList_shape l a; rw [h]
@[simp] theorem State.popList_fepc (l : List Reg) (a : Word) :
    (s.popList l a).fepc = s.fepc := by
  obtain ⟨g, d, h⟩ := s.popList_shape l a; rw [h]
@[simp] theorem State.popList_fepsw (l : List Reg) (a : Word) :
    (s.popList l a).fepsw = s.fepsw := by
  obtain ⟨g, d, h⟩ := s.popList_shape l a; rw [h]
@[simp] theorem State.popList_ecr (l : List Reg) (a : Word) :
    (s.popList l a).ecr = s.ecr := by
  obtain ⟨g, d, h⟩ := s.popList_shape l a; rw [h]
@[simp] theorem State.popList_psw (l : List Reg) (a : Word) :
    (s.popList l a).psw = s.psw := by
  obtain ⟨g, d, h⟩ := s.popList_shape l a; rw [h]
@[simp] theorem State.popList_ctpc (l : List Reg) (a : Word) :
    (s.popList l a).ctpc = s.ctpc := by
  obtain ⟨g, d, h⟩ := s.popList_shape l a; rw [h]
@[simp] theorem State.popList_ctpsw (l : List Reg) (a : Word) :
    (s.popList l a).ctpsw = s.ctpsw := by
  obtain ⟨g, d, h⟩ := s.popList_shape l a; rw [h]
@[simp] theorem State.popList_dbpc (l : List Reg) (a : Word) :
    (s.popList l a).dbpc = s.dbpc := by
  obtain ⟨g, d, h⟩ := s.popList_shape l a; rw [h]
@[simp] theorem State.popList_dbpsw (l : List Reg) (a : Word) :
    (s.popList l a).dbpsw = s.dbpsw := by
  obtain ⟨g, d, h⟩ := s.popList_shape l a; rw [h]
@[simp] theorem State.popList_ctbp (l : List Reg) (a : Word) :
    (s.popList l a).ctbp = s.ctbp := by
  obtain ⟨g, d, h⟩ := s.popList_shape l a; rw [h]
@[simp] theorem State.popList_dir (l : List Reg) (a : Word) :
    (s.popList l a).dir = s.dir := by
  obtain ⟨g, d, h⟩ := s.popList_shape l a; rw [h]
@[simp] theorem State.popList_halted (l : List Reg) (a : Word) :
    (s.popList l a).halted = s.halted := by
  obtain ⟨g, d, h⟩ := s.popList_shape l a; rw [h]
@[simp] theorem State.popList_mem (l : List Reg) (a : Word) :
    (s.popList l a).mem = s.mem := by
  obtain ⟨g, d, h⟩ := s.popList_shape l a; rw [h]
@[simp] theorem State.popList_product (l : List Reg) (a : Word) :
    (s.popList l a).product = s.product := by
  obtain ⟨g, d, h⟩ := s.popList_shape l a; rw [h]
@[simp] theorem State.popList_req (l : List Reg) (a : Word) :
    (s.popList l a).req = s.req := by
  obtain ⟨g, d, h⟩ := s.popList_shape l a; rw [h]
@[simp] theorem State.popList_script (l : List Reg) (a : Word) :
    (s.popList l a).script = s.script := by
  obtain ⟨g, d, h⟩ := s.popList_shape l a; rw [h]
@[simp] theorem State.popList_unsynced (l : List Reg) (a : Word) :
    (s.popList l a).unsynced = s.unsynced := by
  obtain ⟨g, d, h⟩ := s.popList_shape l a; rw [h]
@[simp] theorem State.popList_window (l : List Reg) (a : Word) :
    (s.popList l a).window = s.window := by
  obtain ⟨g, d, h⟩ := s.popList_shape l a; rw [h]

/-! ### prepareFrame and disposeFrame -/

@[simp] theorem State.prepareFrame_pc (l : BitVec 12) (i : BitVec 5) :
    (s.prepareFrame l i).pc = s.pc := s.pushList_pc _ _
@[simp] theorem State.prepareFrame_eipc (l : BitVec 12) (i : BitVec 5) :
    (s.prepareFrame l i).eipc = s.eipc := s.pushList_eipc _ _
@[simp] theorem State.prepareFrame_eipsw (l : BitVec 12) (i : BitVec 5) :
    (s.prepareFrame l i).eipsw = s.eipsw := s.pushList_eipsw _ _
@[simp] theorem State.prepareFrame_fepc (l : BitVec 12) (i : BitVec 5) :
    (s.prepareFrame l i).fepc = s.fepc := s.pushList_fepc _ _
@[simp] theorem State.prepareFrame_fepsw (l : BitVec 12) (i : BitVec 5) :
    (s.prepareFrame l i).fepsw = s.fepsw := s.pushList_fepsw _ _
@[simp] theorem State.prepareFrame_ecr (l : BitVec 12) (i : BitVec 5) :
    (s.prepareFrame l i).ecr = s.ecr := s.pushList_ecr _ _
@[simp] theorem State.prepareFrame_psw (l : BitVec 12) (i : BitVec 5) :
    (s.prepareFrame l i).psw = s.psw := s.pushList_psw _ _
@[simp] theorem State.prepareFrame_ctpc (l : BitVec 12) (i : BitVec 5) :
    (s.prepareFrame l i).ctpc = s.ctpc := s.pushList_ctpc _ _
@[simp] theorem State.prepareFrame_ctpsw (l : BitVec 12) (i : BitVec 5) :
    (s.prepareFrame l i).ctpsw = s.ctpsw := s.pushList_ctpsw _ _
@[simp] theorem State.prepareFrame_dbpc (l : BitVec 12) (i : BitVec 5) :
    (s.prepareFrame l i).dbpc = s.dbpc := s.pushList_dbpc _ _
@[simp] theorem State.prepareFrame_dbpsw (l : BitVec 12) (i : BitVec 5) :
    (s.prepareFrame l i).dbpsw = s.dbpsw := s.pushList_dbpsw _ _
@[simp] theorem State.prepareFrame_ctbp (l : BitVec 12) (i : BitVec 5) :
    (s.prepareFrame l i).ctbp = s.ctbp := s.pushList_ctbp _ _
@[simp] theorem State.prepareFrame_dir (l : BitVec 12) (i : BitVec 5) :
    (s.prepareFrame l i).dir = s.dir := s.pushList_dir _ _
@[simp] theorem State.prepareFrame_halted (l : BitVec 12) (i : BitVec 5) :
    (s.prepareFrame l i).halted = s.halted := s.pushList_halted _ _
@[simp] theorem State.prepareFrame_product (l : BitVec 12) (i : BitVec 5) :
    (s.prepareFrame l i).product = s.product := s.pushList_product _ _
@[simp] theorem State.prepareFrame_req (l : BitVec 12) (i : BitVec 5) :
    (s.prepareFrame l i).req = s.req := s.pushList_req _ _
@[simp] theorem State.prepareFrame_script (l : BitVec 12) (i : BitVec 5) :
    (s.prepareFrame l i).script = s.script := s.pushList_script _ _
@[simp] theorem State.prepareFrame_draws (l : BitVec 12) (i : BitVec 5) :
    (s.prepareFrame l i).draws = s.draws := s.pushList_draws _ _
@[simp] theorem State.prepareFrame_window (l : BitVec 12) (i : BitVec 5) :
    (s.prepareFrame l i).window = s.window := s.pushList_window _ _
@[simp] theorem State.disposeFrame_pc (i : BitVec 5) (l : BitVec 12) :
    (s.disposeFrame i l).pc = s.pc := s.popList_pc _ _
@[simp] theorem State.disposeFrame_eipc (i : BitVec 5) (l : BitVec 12) :
    (s.disposeFrame i l).eipc = s.eipc := s.popList_eipc _ _
@[simp] theorem State.disposeFrame_eipsw (i : BitVec 5) (l : BitVec 12) :
    (s.disposeFrame i l).eipsw = s.eipsw := s.popList_eipsw _ _
@[simp] theorem State.disposeFrame_fepc (i : BitVec 5) (l : BitVec 12) :
    (s.disposeFrame i l).fepc = s.fepc := s.popList_fepc _ _
@[simp] theorem State.disposeFrame_fepsw (i : BitVec 5) (l : BitVec 12) :
    (s.disposeFrame i l).fepsw = s.fepsw := s.popList_fepsw _ _
@[simp] theorem State.disposeFrame_ecr (i : BitVec 5) (l : BitVec 12) :
    (s.disposeFrame i l).ecr = s.ecr := s.popList_ecr _ _
@[simp] theorem State.disposeFrame_psw (i : BitVec 5) (l : BitVec 12) :
    (s.disposeFrame i l).psw = s.psw := s.popList_psw _ _
@[simp] theorem State.disposeFrame_ctpc (i : BitVec 5) (l : BitVec 12) :
    (s.disposeFrame i l).ctpc = s.ctpc := s.popList_ctpc _ _
@[simp] theorem State.disposeFrame_ctpsw (i : BitVec 5) (l : BitVec 12) :
    (s.disposeFrame i l).ctpsw = s.ctpsw := s.popList_ctpsw _ _
@[simp] theorem State.disposeFrame_dbpc (i : BitVec 5) (l : BitVec 12) :
    (s.disposeFrame i l).dbpc = s.dbpc := s.popList_dbpc _ _
@[simp] theorem State.disposeFrame_dbpsw (i : BitVec 5) (l : BitVec 12) :
    (s.disposeFrame i l).dbpsw = s.dbpsw := s.popList_dbpsw _ _
@[simp] theorem State.disposeFrame_ctbp (i : BitVec 5) (l : BitVec 12) :
    (s.disposeFrame i l).ctbp = s.ctbp := s.popList_ctbp _ _
@[simp] theorem State.disposeFrame_dir (i : BitVec 5) (l : BitVec 12) :
    (s.disposeFrame i l).dir = s.dir := s.popList_dir _ _
@[simp] theorem State.disposeFrame_halted (i : BitVec 5) (l : BitVec 12) :
    (s.disposeFrame i l).halted = s.halted := s.popList_halted _ _
@[simp] theorem State.disposeFrame_mem (i : BitVec 5) (l : BitVec 12) :
    (s.disposeFrame i l).mem = s.mem := s.popList_mem _ _
@[simp] theorem State.disposeFrame_product (i : BitVec 5) (l : BitVec 12) :
    (s.disposeFrame i l).product = s.product := s.popList_product _ _
@[simp] theorem State.disposeFrame_req (i : BitVec 5) (l : BitVec 12) :
    (s.disposeFrame i l).req = s.req := s.popList_req _ _
@[simp] theorem State.disposeFrame_script (i : BitVec 5) (l : BitVec 12) :
    (s.disposeFrame i l).script = s.script := s.popList_script _ _
@[simp] theorem State.disposeFrame_unsynced (i : BitVec 5) (l : BitVec 12) :
    (s.disposeFrame i l).unsynced = s.unsynced := s.popList_unsynced _ _
@[simp] theorem State.disposeFrame_window (i : BitVec 5) (l : BitVec 12) :
    (s.disposeFrame i l).window = s.window := s.popList_window _ _

end Sys2Proof.Machine
end

