-- ==== Sys2Proof/Laws/Flags.lean ====
section
/-! SUPPORT. Reading flags after a write to the PSW (spec/10_state.md R46, R49). -/

namespace Sys2Proof.Machine

theorem flagOf_withFlag (f g : Flag) (b : Bool) (psw : Word) :
    flagOf (withFlag f b psw) g = if g = f then b else flagOf psw g := by
  cases f <;> cases g <;> cases b <;> simp [flagOf, withFlag, Flag.bit]

/-- Bits 31..8 are not moved by a flag write. -/
theorem getLsbD_withFlag (f : Flag) (b : Bool) (psw : Word) {k : Nat} (h : 8 ≤ k) :
    (withFlag f b psw).getLsbD k = psw.getLsbD k := by
  have hb : f.bit < 8 := by cases f <;> decide
  have hk : (1#32 <<< f.bit).getLsbD k = false := by
    simp only [BitVec.getLsbD_shiftLeft, BitVec.getLsbD_one, Bool.and_eq_false_iff, decide_eq_false_iff_not]
    right; omega
  by_cases h32 : k < 32
  · cases b <;> simp only [withFlag, if_true, if_false, BitVec.getLsbD_or, BitVec.getLsbD_and, BitVec.getLsbD_not, hk,
      h32, Bool.or_false, decide_true, Bool.not_false, Bool.and_true, Bool.false_eq_true]
  · simp [BitVec.getLsbD_of_ge _ _ (by omega : 32 ≤ k)]

/-- What a flag write says about one flag. -/
def FlagWrite.get (w : FlagWrite) : Flag → Option Bool
  | .sat => w.sat
  | .cy => w.cy
  | .ov => w.ov
  | .s => w.s
  | .z => w.z
  | .np | .ep | .id => none

theorem flagOf_withFlagOpt (f g : Flag) (b : Option Bool) (psw : Word) :
    flagOf (withFlagOpt f b psw) g = if g = f then b.getD (flagOf psw g) else flagOf psw g := by
  cases b <;> simp [withFlagOpt, flagOf_withFlag]

/-- Everything a flag write does to the flags: those it names are written, the others are as before. -/
theorem flagOf_apply (w : FlagWrite) (psw : Word) (f : Flag) :
    flagOf (w.apply psw) f = (w.get f).getD (flagOf psw f) := by
  cases f <;> simp [FlagWrite.apply, flagOf_withFlagOpt, FlagWrite.get]

theorem getLsbD_apply (w : FlagWrite) (psw : Word) {k : Nat} (h : 8 ≤ k) :
    (w.apply psw).getLsbD k = psw.getLsbD k := by
  have one : ∀ f b p, (withFlagOpt f b p).getLsbD k = p.getLsbD k := by
    intro f b p; cases b <;> simp [withFlagOpt, getLsbD_withFlag _ _ _ h]
  simp [FlagWrite.apply, one]

/-- Two PSWs with the same flags and the same reserved bits are equal. -/
theorem psw_ext {p q : Word} (hf : ∀ f, flagOf p f = flagOf q f) (hr : ∀ k, 8 ≤ k → p.getLsbD k = q.getLsbD k) :
    p = q := by
  apply BitVec.eq_of_getLsbD_eq
  intro k _
  by_cases h : 8 ≤ k
  · exact hr k h
  · have : k < 8 := by omega
    interval_cases k
    · exact hf .z
    · exact hf .s
    · exact hf .ov
    · exact hf .cy
    · exact hf .sat
    · exact hf .id
    · exact hf .ep
    · exact hf .np

/-- Everything an event entry does to the flags. -/
theorem flagOf_enterPSW (np ep : Bool) (psw : Word) (f : Flag) :
    flagOf (enterPSW np ep psw) f =
      match f with
      | .np => np || flagOf psw .np
      | .ep => ep
      | .id => true
      | f => flagOf psw f := by
  cases f <;> cases np <;> simp [enterPSW, flagOf_withFlag]

theorem getLsbD_enterPSW (np ep : Bool) (psw : Word) {k : Nat} (h : 8 ≤ k) :
    (enterPSW np ep psw).getLsbD k = psw.getLsbD k := by
  cases np <;> simp [enterPSW, getLsbD_withFlag _ _ _ h]

/-- A flag write keeps the reserved bits 0. -/
theorem pswBits_of_reserved {p q : Word} (hr : ∀ k, 8 ≤ k → q.getLsbD k = p.getLsbD k) (hp : pswBits p = p) :
    pswBits q = q := by
  have key : ∀ (v : Word), pswBits v = v ↔ ∀ k, 8 ≤ k → v.getLsbD k = false := by
    intro v
    constructor
    · intro h k hk
      rw [← h]
      by_cases h32 : k < 32
      · interval_cases k <;> simp [pswBits]
      · simp [BitVec.getLsbD_of_ge _ _ (by omega : 32 ≤ k)]
    · intro h
      apply BitVec.eq_of_getLsbD_eq
      intro k hk
      by_cases h8 : 8 ≤ k
      · rw [h k h8]; interval_cases k <;> simp [pswBits]
      · have : k < 8 := by omega
        interval_cases k <;> simp [pswBits]
  rw [key] at hp ⊢
  intro k hk
  rw [hr k hk, hp k hk]

end Sys2Proof.Machine
end

