-- ==== Sys2Proof/Laws/Memory.lean ====
section
/-! SUPPORT. Memory: a write is read back, leaves every other cell, and keeps the canonical form
(spec/20_memory.md R85, R86; log 3). -/

namespace Sys2Proof.Machine

/-- Everything a write does to what the cells read. -/
theorem Memory.read_write (m : Memory) (n : Nat) (v : Byte) (c : Nat) (lo : Nat) (h : Memory.wfFrom lo m = true) :
    Memory.read (Memory.write m n v) c = if c = n then v else Memory.read m c := by
  have above : ∀ (m : Memory) (lo c : Nat), Memory.wfFrom lo m = true → c < lo →
      Memory.read m c = Memory.unlisted := by
    intro m
    induction m with
    | nil => intros; rfl
    | cons p m ih =>
      obtain ⟨a, b⟩ := p
      intro lo c h hc
      simp only [Memory.wfFrom, Bool.and_eq_true, decide_eq_true_eq] at h
      have hne : a ≠ c := by omega
      simp only [Memory.read, hne, if_false]
      exact ih (a + 1) c h.2 (by omega)
  induction m generalizing lo with
  | nil =>
    by_cases hv : v = Memory.unlisted
    · by_cases hc : c = n <;> simp [Memory.write, Memory.read, hv]
    · by_cases hc : c = n
      · simp [Memory.write, Memory.read, hv, hc]
      · simp [Memory.write, Memory.read, hv, hc, Ne.symm hc]
  | cons p m ih =>
    obtain ⟨a, b⟩ := p
    have hm := h
    simp only [Memory.wfFrom, Bool.and_eq_true, decide_eq_true_eq] at hm
    by_cases h1 : n < a
    · have hu : Memory.read ((a, b) :: m) n = Memory.unlisted := by
        have hne : a ≠ n := by omega
        simp only [Memory.read, hne, if_false]
        exact above m (a + 1) n hm.2 (by omega)
      by_cases hv : v = Memory.unlisted
      · by_cases hc : c = n
        · subst hc; rw [Memory.write, if_pos h1, if_pos hv, if_pos rfl, hu, hv]
        · rw [Memory.write, if_pos h1, if_pos hv, if_neg hc]
      · by_cases hc : c = n
        · subst hc; rw [Memory.write, if_pos h1, if_neg hv, if_pos rfl]; simp [Memory.read]
        · rw [Memory.write, if_pos h1, if_neg hv, if_neg hc, Memory.read, if_neg (Ne.symm hc)]
    · by_cases h2 : n = a
      · subst h2
        by_cases hv : v = Memory.unlisted
        · by_cases hc : c = n
          · subst hc
            rw [Memory.write, if_neg h1, if_pos rfl, if_pos hv, if_pos rfl, hv]
            exact above m (c + 1) c hm.2 (by omega)
          · rw [Memory.write, if_neg h1, if_pos rfl, if_pos hv, if_neg hc, Memory.read, if_neg (Ne.symm hc)]
        · by_cases hc : c = n
          · subst hc; rw [Memory.write, if_neg h1, if_pos rfl, if_neg hv, if_pos rfl]; simp [Memory.read]
          · rw [Memory.write, if_neg h1, if_pos rfl, if_neg hv, if_neg hc, Memory.read, if_neg (Ne.symm hc),
              Memory.read, if_neg (Ne.symm hc)]
      · rw [Memory.write, if_neg h1, if_neg h2, Memory.read, Memory.read]
        by_cases hac : a = c
        · subst hac; simp [Ne.symm h2]
        · rw [if_neg hac, if_neg hac]; exact ih (a + 1) hm.2

/-- A write keeps the canonical form. -/
theorem Memory.wfFrom_write (m : Memory) (n : Nat) (v : Byte) (lo : Nat) (h : Memory.wfFrom lo m = true)
    (hlo : lo ≤ n) (hn : n < 2 ^ 32) : Memory.wfFrom lo (Memory.write m n v) = true := by
  have mono : ∀ (m : Memory) (lo lo' : Nat), lo' ≤ lo → Memory.wfFrom lo m = true → Memory.wfFrom lo' m = true := by
    intro m lo lo' hle h
    cases m with
    | nil => rfl
    | cons p m =>
      simp only [Memory.wfFrom, Bool.and_eq_true, decide_eq_true_eq] at h ⊢
      exact ⟨⟨⟨by omega, h.1.1.2⟩, h.1.2⟩, h.2⟩
  induction m generalizing lo with
  | nil => by_cases hv : v = Memory.unlisted <;> simp [Memory.write, hv, Memory.wfFrom, hlo] <;> omega
  | cons p m ih =>
    obtain ⟨a, b⟩ := p
    have hm := h
    simp only [Memory.wfFrom, Bool.and_eq_true, decide_eq_true_eq] at hm
    by_cases h1 : n < a
    · by_cases hv : v = Memory.unlisted
      · rw [Memory.write, if_pos h1, if_pos hv]; exact h
      · rw [Memory.write, if_pos h1, if_neg hv]
        simp only [Memory.wfFrom, Bool.and_eq_true, decide_eq_true_eq]
        exact ⟨⟨⟨hlo, hn⟩, hv⟩, ⟨⟨⟨by omega, hm.1.1.2⟩, hm.1.2⟩, hm.2⟩⟩
    · by_cases h2 : n = a
      · subst h2
        by_cases hv : v = Memory.unlisted
        · rw [Memory.write, if_neg h1, if_pos rfl, if_pos hv]; exact mono m (n + 1) lo (by omega) hm.2
        · rw [Memory.write, if_neg h1, if_pos rfl, if_neg hv]
          simp only [Memory.wfFrom, Bool.and_eq_true, decide_eq_true_eq]
          exact ⟨⟨⟨hlo, hn⟩, hv⟩, hm.2⟩
      · rw [Memory.write, if_neg h1, if_neg h2]
        simp only [Memory.wfFrom, Bool.and_eq_true, decide_eq_true_eq]
        exact ⟨hm.1, ih (a + 1) hm.2 (by omega)⟩

theorem Memory.wf_write {m : Memory} (h : m.wf = true) (n : Nat) (v : Byte) (hn : n < 2 ^ 32) :
    (m.write n v).wf = true := Memory.wfFrom_write m n v 0 h (Nat.zero_le n) hn

theorem Product.cell_lt (p : Product) (a : Word) : p.cell a < 2 ^ 32 := by
  unfold Product.cell
  split
  · exact lt_trans (Nat.mod_lt _ (by decide)) (by decide)
  · exact a.isLt

theorem Product.wf_writeCell (p : Product) {m : Memory} (h : m.wf = true) (c : Nat) (v : Byte) (hc : c < 2 ^ 32) :
    (p.writeCell c v m).wf = true := by
  unfold Product.writeCell
  split
  · exact Memory.wf_write h c v hc
  · exact h

/-- A write to a cell is read back where the cell is plain RAM, and has no effect elsewhere (D14). -/
theorem Product.read_writeCell (p : Product) {m : Memory} (h : m.wf = true) (c d : Nat) (v : Byte) :
    (p.writeCell c v m).read d = if d = c ∧ p.kindAt c = .ram then v else m.read d := by
  unfold Product.writeCell
  by_cases hk : p.kindAt c = .ram
  · rw [if_pos hk, Memory.read_write m c v d 0 h]; simp [hk]
  · simp [hk]

/-! ### Stores -/

variable (s : State)

theorem State.wf_writeByte (h : s.mem.wf = true) (a : Word) (v : Byte) : (s.writeByte a v).mem.wf = true := by
  rw [State.writeByte_mem]
  exact Product.wf_writeCell _ h _ _ (Product.cell_lt _ _)

theorem State.wf_storeHalf (h : s.mem.wf = true) (a : Word) (v : Half) : (s.storeHalf a v).mem.wf = true :=
  State.wf_writeByte _ (State.wf_writeByte _ h _ _) _ _

theorem State.wf_storeWord (h : s.mem.wf = true) (a v : Word) : (s.storeWord a v).mem.wf = true :=
  State.wf_writeByte _ (State.wf_writeByte _ (State.wf_writeByte _ (State.wf_writeByte _ h _ _) _ _) _ _) _ _

theorem State.wf_pushList (h : s.mem.wf = true) (l : List Reg) (a : Word) : (s.pushList l a).mem.wf = true := by
  induction l generalizing s a with
  | nil => exact h
  | cons r l ih => exact ih _ (State.wf_storeWord _ h _ _) _

/-- What a byte reads after one byte was stored. -/
theorem State.byteAt_writeByte (h : s.mem.wf = true) (a : Word) (v : Byte) (b : Word) :
    (s.writeByte a v).byteAt b =
      if s.product.cell b = s.product.cell a ∧ s.product.kindAt (s.product.cell a) = .ram then v else s.byteAt b := by
  unfold State.byteAt
  rw [State.writeByte_mem, State.writeByte_product, Product.read_writeCell _ h]

/-- The memory and the product are all that a byte read sees. -/
theorem State.byteAt_of_mem {s t : State} (hm : t.mem = s.mem) (hp : t.product = s.product) (a : Word) :
    t.byteAt a = s.byteAt a := by simp [State.byteAt, hm, hp]

end Sys2Proof.Machine
end

