-- ==== Sys2Proof/Laws/Registers.lean ====
section
/-! SUPPORT. Reading registers after an update: r0 reads 0, a write is read back, nothing else moves
(spec/10_state.md R30, R31, R40). -/

namespace Sys2Proof.Machine

variable (s t : State)

@[simp] theorem State.gpr_zero : s.gpr 0#5 = 0#32 := by simp [State.gpr]

@[simp] theorem written_zero (v : Word) : written 0#5 v = 0#32 := by simp [written]

theorem written_of_ne {r : Reg} (h : r ≠ 0#5) (v : Word) : written r v = v := by simp [written, h]

/-- The register file is all that a read of a general register sees. -/
theorem State.gpr_of_regs {s t : State} (h : t.regs = s.regs) (r : Reg) : t.gpr r = s.gpr r := by
  simp [State.gpr, h]

/-- Everything a register write does to the general registers. -/
theorem State.gpr_of_write {s t : State} {q : Reg} {v : Word} (h : t.regs = writeReg s.regs q v) (r : Reg) :
    t.gpr r = if r = q then written q v else s.gpr r := by
  by_cases hr : r = 0#5
  · subst hr
    by_cases hq : (0#5 : Reg) = q
    · subst hq; simp [State.gpr, written]
    · simp [State.gpr, hq]
  · by_cases hq : q = 0#5
    · subst hq; simp [State.gpr, h, hr, writeReg]
    · by_cases hrq : r = q
      · subst hrq; simp [State.gpr, h, hr, writeReg, written]
      · have hn : ¬ q.toNat = r.toNat := fun e => hrq (BitVec.eq_of_toNat_eq e.symm)
        simp [State.gpr, h, hr, writeReg, hq, hrq, hn]

theorem State.gpr_setReg (q : Reg) (v : Word) (r : Reg) :
    (s.setReg q v).gpr r = if r = q then written q v else s.gpr r := State.gpr_of_write rfl r

@[simp] theorem State.gpr_setReg_self (q : Reg) (v : Word) : (s.setReg q v).gpr q = written q v := by
  simp [State.gpr_setReg]

theorem State.gpr_setReg_other {q r : Reg} (h : r ≠ q) (v : Word) : (s.setReg q v).gpr r = s.gpr r := by
  simp [State.gpr_setReg, h]

/-- The system registers are all that STSR sees. -/
theorem State.sysReg_of_fields {s t : State} (h0 : t.eipc = s.eipc) (h1 : t.eipsw = s.eipsw) (h2 : t.fepc = s.fepc)
    (h3 : t.fepsw = s.fepsw) (h4 : t.ecr = s.ecr) (h16 : t.ctpc = s.ctpc) (h17 : t.ctpsw = s.ctpsw)
    (h18 : t.dbpc = s.dbpc) (h19 : t.dbpsw = s.dbpsw) (h20 : t.ctbp = s.ctbp) (h21 : t.dir = s.dir)
    (n : BitVec 5) (hn : n ≠ 5#5) : t.sysReg n = s.sysReg n := by
  have h5 : n.toNat ≠ 5 := fun h => hn (BitVec.eq_of_toNat_eq h)
  unfold State.sysReg
  split <;> simp_all

/-- The same, where the field that the number names is as before. -/
theorem State.sysReg_of_field {s t : State} (n : BitVec 5) (h0 : n = 0#5 → t.eipc = s.eipc)
    (h1 : n = 1#5 → t.eipsw = s.eipsw) (h2 : n = 2#5 → t.fepc = s.fepc) (h3 : n = 3#5 → t.fepsw = s.fepsw)
    (h4 : n = 4#5 → t.ecr = s.ecr) (h5 : n = 5#5 → t.psw = s.psw) (h16 : n = 16#5 → t.ctpc = s.ctpc)
    (h17 : n = 17#5 → t.ctpsw = s.ctpsw) (h18 : n = 18#5 → t.dbpc = s.dbpc) (h19 : n = 19#5 → t.dbpsw = s.dbpsw)
    (h20 : n = 20#5 → t.ctbp = s.ctbp) (h21 : n = 21#5 → t.dir = s.dir) : t.sysReg n = s.sysReg n := by
  have e : ∀ k : Nat, (h : n.toNat = k) → n = BitVec.ofNat 5 k := fun k h => by rw [← h]; simp
  unfold State.sysReg
  split
  · rw [h0 (e _ ‹_›)]
  · rw [h1 (e _ ‹_›)]
  · rw [h2 (e _ ‹_›)]
  · rw [h3 (e _ ‹_›)]
  · rw [h4 (e _ ‹_›)]
  · rw [h5 (e _ ‹_›)]
  · rw [h16 (e _ ‹_›)]
  · rw [h17 (e _ ‹_›)]
  · rw [h18 (e _ ‹_›)]
  · rw [h19 (e _ ‹_›)]
  · rw [h20 (e _ ‹_›)]
  · rw [h21 (e _ ‹_›)]
  · rfl

end Sys2Proof.Machine
end

