-- ==== Sys2Proof/Laws/Results.lean ====
section
/-! SUPPORT. What each shared operation does to the whole state, in the terms of Sys2Proof/Safety.lean: its frame, the
memory, the pc. -/

namespace Sys2Proof.Machine

variable (s : State)

/-! ### Frames -/

/-- A frame from its parts: the registers and flags that stay, and the fields that are as before. -/
theorem Frame.of_fields {regs : List Reg} {flags : List Flag} {special : List (BitVec 5)} {s t : State}
    (hr : ∀ r : Reg, r ∉ regs → t.gpr r = s.gpr r)
    (hf : ∀ f : Flag, f ∉ flags → flagOf t.psw f = flagOf s.psw f)
    (hk : ∀ k : Nat, 8 ≤ k → t.psw.getLsbD k = s.psw.getLsbD k)
    (hs : ∀ n : BitVec 5, n ≠ 5#5 → n ∉ special → t.sysReg n = s.sysReg n)
    (ho : t.halted = s.halted ∧ t.product = s.product ∧ t.req = s.req ∧ t.script = s.script) :
    Frame regs flags special s t := ⟨hr, hf, hk, hs, ho.1, ho.2.1, ho.2.2.1, ho.2.2.2⟩

/-- Everything a write of one register and a PSW leaves: `t` differs from `s` in one general register, some flags, the
pc, memory and the model's own counters. -/
theorem Frame.of_update {s t : State} {q : Reg} {v : Word} {flags : List Flag} (hr : t.regs = writeReg s.regs q v)
    (hf : ∀ f : Flag, f ∉ flags → flagOf t.psw f = flagOf s.psw f)
    (hk : ∀ k : Nat, 8 ≤ k → t.psw.getLsbD k = s.psw.getLsbD k)
    (h : t = { s with regs := t.regs, pc := t.pc, psw := t.psw, mem := t.mem, draws := t.draws, unsynced := t.unsynced,
                      window := t.window }) : Frame [q] flags [] s t := by
  refine Frame.of_fields ?_ hf hk ?_ ?_
  · intro r hq
    rw [State.gpr_of_write hr, if_neg (by simpa using hq)]
  · intro n hn _
    rw [h]; apply State.sysReg_of_fields (s := s) <;> first | rfl | exact hn
  · rw [h]; exact ⟨rfl, rfl, rfl, rfl⟩

/-- The same with no register written. -/
theorem Frame.of_update_psw {s t : State} {flags : List Flag} (hr : t.regs = s.regs)
    (hf : ∀ f : Flag, f ∉ flags → flagOf t.psw f = flagOf s.psw f)
    (hk : ∀ k : Nat, 8 ≤ k → t.psw.getLsbD k = s.psw.getLsbD k)
    (h : t = { s with regs := t.regs, pc := t.pc, psw := t.psw, mem := t.mem, draws := t.draws, unsynced := t.unsynced,
                      window := t.window }) : Frame [] flags [] s t := by
  refine Frame.of_fields ?_ hf hk ?_ ?_
  · intro r _
    exact State.gpr_of_regs hr r
  · intro n hn _
    rw [h]; apply State.sysReg_of_fields (s := s) <;> first | rfl | exact hn
  · rw [h]; exact ⟨rfl, rfl, rfl, rfl⟩

/-- A frame may name more registers. -/
theorem Frame.mono {regs regs' : List Reg} {flags : List Flag} {special : List (BitVec 5)} {s t : State}
    (h : Frame regs flags special s t) (hr : ∀ r ∈ regs, r ∈ regs') : Frame regs' flags special s t :=
  ⟨fun r hn => h.regs r fun hm => hn (hr r hm), h.flags, h.reserved, h.special, h.halted, h.product, h.req, h.script⟩

/-- Memory reads as before where the memory and the product are as before. -/
theorem SameMemory.of_fields {s t : State} (hm : t.mem = s.mem) (hp : t.product = s.product) : SameMemory s t :=
  fun a => State.byteAt_of_mem hm hp a

/-! ### One register written -/

/-- Everything a register write and the pc's advance do. -/
theorem writesOnly_setReg (r : Reg) (v len : Word) : WritesOnly r v len s ((s.setReg r v).advance len) :=
  ⟨State.gpr_setReg_self s r v, rfl, Frame.of_update rfl (fun _ _ => rfl) (fun _ _ => rfl) rfl,
    SameMemory.of_fields rfl rfl⟩

/-- Everything flag writes and the pc's advance do. -/
theorem frame_setFlags (w : FlagWrite) (len : Word) (flags : List Flag) (h : ∀ f, f ∉ flags → w.get f = none) :
    Frame [] flags [] s ((s.setFlags w).advance len) :=
  Frame.of_update_psw rfl (fun f hf => by simp [flagOf_apply, h f hf]) (fun _ hk => getLsbD_apply w s.psw hk) rfl

/-- Everything a register write, flag writes and the pc's advance do. -/
theorem frame_writeResult (r : Reg) (v : Word) (w : FlagWrite) (len : Word) (flags : List Flag)
    (h : ∀ f, f ∉ flags → w.get f = none) : Frame [r] flags [] s ((s.writeResult r v w).advance len) :=
  Frame.of_update rfl (fun f hf => by simp [flagOf_apply, h f hf]) (fun _ hk => getLsbD_apply w s.psw hk) rfl

theorem gpr_writeResult (r : Reg) (v : Word) (w : FlagWrite) (len : Word) :
    ((s.writeResult r v w).advance len).gpr r = written r v :=
  State.gpr_setReg_self s r v

theorem flagOf_writeResult (r : Reg) (v : Word) (w : FlagWrite) (len : Word) (f : Flag) :
    flagOf ((s.writeResult r v w).advance len).psw f = (w.get f).getD (flagOf s.psw f) :=
  flagOf_apply w s.psw f

theorem flagOf_setFlags (w : FlagWrite) (len : Word) (f : Flag) :
    flagOf ((s.setFlags w).advance len).psw f = (w.get f).getD (flagOf s.psw f) :=
  flagOf_apply w s.psw f

end Sys2Proof.Machine
end

