-- ==== Sys2Proof/Laws/Access.lean ====
section
/-! SUPPORT. What a data access does once and for all: what a load gives, which bytes a store leaves, what the bit
instructions make of a byte (spec/20_memory.md R85 to R87). -/

namespace Sys2Proof.Machine

variable (s : State)

/-! ### Loads -/

/-- A byte read is the byte held where it is plain. -/
theorem State.byteRead_of_plain (k : Nat) (a : Word)
    (h : (s.product.kindAt (s.product.cell a)).isPlain = true) : s.byteRead k a = s.byteAt a := by
  simp [State.byteRead, State.cellRead, h, State.byteAt]

/-- The bytes that an access at `a` reads are bytes it could read. -/
theorem State.couldRead_byteRead (a : Word) (n : Nat) :
    s.couldRead a n fun k => s.byteRead k (a + BitVec.ofNat 32 k) :=
  fun k _ h => State.byteRead_of_plain s k _ h

/-- Everything a load does. -/
theorem loads_afterRead (r : Reg) (a : Word) (n m : Nat) (value : (Nat → Byte) → Word) (v len : Word)
    (h : v = value fun k => s.byteRead k (a + BitVec.ofNat 32 k)) :
    Loads r a n value len s (((s.afterRead m a).setReg r v).advance len) :=
  ⟨⟨_, State.couldRead_byteRead s a n, by rw [← h]; exact State.gpr_setReg_self _ r v⟩, rfl,
    Frame.of_update rfl (fun _ _ => rfl) (fun _ _ => rfl) rfl, SameMemory.of_fields rfl rfl⟩

theorem State.loadByte_eq (a : Word) : s.loadByte a = s.byteRead 0 (a + 0#32) := by simp [State.loadByte]

theorem State.loadHalf_eq (a : Word) : s.loadHalf a = halfOf fun k => s.byteRead k (a + BitVec.ofNat 32 k) := by
  simp [State.loadHalf, halfOf]

theorem State.loadWord_eq (a : Word) : s.loadWord a = wordOf fun k => s.byteRead k (a + BitVec.ofNat 32 k) := by
  simp [State.loadWord, wordOf]

/-! ### Stores -/

/-- Bytes of one access, or of one stack frame, lie in different cells. -/
theorem Product.cell_add_inj (p : Product) (a : Word) {i j : Nat} (hi : i < 2 ^ 26) (hj : j < 2 ^ 26)
    (h : p.cell (a + BitVec.ofNat 32 i) = p.cell (a + BitVec.ofNat 32 j)) : i = j := by
  have ha := a.isLt
  unfold Product.cell at h
  split at h <;> simp only [BitVec.toNat_add, BitVec.toNat_ofNat] at h <;> omega

/-- The state after the bytes `bytes 0` to `bytes (n - 1)` were stored from `a` on, one after the other. -/
def State.storeBytes (a : Word) (bytes : Nat → Byte) : Nat → State → State
  | 0, s => s
  | n + 1, s => (State.storeBytes a bytes n s).writeByte (a + BitVec.ofNat 32 n) (bytes n)

@[simp] theorem State.storeBytes_product (a : Word) (bytes : Nat → Byte) (n : Nat) :
    (s.storeBytes a bytes n).product = s.product := by
  induction n with
  | zero => rfl
  | succ n ih => exact ih

theorem State.wf_storeBytes (h : s.mem.wf = true) (a : Word) (bytes : Nat → Byte) (n : Nat) :
    (s.storeBytes a bytes n).mem.wf = true := by
  induction n with
  | zero => exact h
  | succ n ih => exact State.wf_writeByte _ ih _ _

/-- Stores move memory and the model's record of stored cells, and nothing else. -/
theorem State.storeBytes_eq (a : Word) (bytes : Nat → Byte) (n : Nat) :
    s.storeBytes a bytes n =
      { s with mem := (s.storeBytes a bytes n).mem, unsynced := (s.storeBytes a bytes n).unsynced } := by
  induction n with
  | zero => rfl
  | succ n ih => rw [State.storeBytes, ih]; rfl

/-- A byte outside the stored bytes reads as before. -/
theorem State.byteAt_storeBytes_other (h : s.mem.wf = true) (a : Word) (bytes : Nat → Byte) (n : Nat) (b : Word)
    (hb : ∀ k < n, s.product.cell b ≠ s.product.cell (a + BitVec.ofNat 32 k)) :
    (s.storeBytes a bytes n).byteAt b = s.byteAt b := by
  induction n with
  | zero => rfl
  | succ n ih =>
    rw [State.storeBytes, State.byteAt_writeByte _ (State.wf_storeBytes s h a bytes n), State.storeBytes_product,
      if_neg (fun hc => hb n (by omega) hc.1)]
    exact ih fun k hk => hb k (by omega)

/-- A stored byte reads back where it went to plain RAM, and as before anywhere else. -/
theorem State.byteAt_storeBytes_self (h : s.mem.wf = true) (a : Word) (bytes : Nat → Byte) (n : Nat) (hn : n ≤ 2 ^ 26)
    (k : Nat) (hk : k < n) :
    (s.storeBytes a bytes n).byteAt (a + BitVec.ofNat 32 k) =
      if s.product.kindAt (s.product.cell (a + BitVec.ofNat 32 k)) = .ram then bytes k
      else s.byteAt (a + BitVec.ofNat 32 k) := by
  induction n with
  | zero => omega
  | succ n ih =>
    rw [State.storeBytes, State.byteAt_writeByte _ (State.wf_storeBytes s h a bytes n), State.storeBytes_product]
    by_cases hkn : k = n
    · subst hkn
      by_cases hr : s.product.kindAt (s.product.cell (a + BitVec.ofNat 32 k)) = .ram
      · simp [hr]
      · rw [if_neg fun hc => hr hc.2, if_neg hr]
        exact State.byteAt_storeBytes_other s h a bytes k _ fun j hj e =>
          absurd (Product.cell_add_inj _ a (by omega) (by omega) e) (by omega)
    · rw [if_neg fun hc => hkn (Product.cell_add_inj _ a (by omega) (by omega) hc.1)]
      exact ih (by omega) (by omega)

theorem State.storeByte_eq (a : Word) (v : Byte) : s.storeByte a v = s.storeBytes a (fun _ => v) 1 := by
  simp [State.storeByte, State.storeBytes]

theorem State.storeHalf_eq (a : Word) (v : Half) :
    s.storeHalf a v = s.storeBytes a (fun k => v.extractLsb' (8 * k) 8) 2 := by
  simp [State.storeHalf, State.storeBytes]

theorem State.storeWord_eq (a v : Word) :
    s.storeWord a v = s.storeBytes a (fun k => v.extractLsb' (8 * k) 8) 4 := by
  simp [State.storeWord, State.storeBytes, byteOf]

/-- Everything a store of `n` bytes and the pc's advance do. -/
theorem stores_storeBytes (h : s.mem.wf = true) (a : Word) (bytes : Nat → Byte) (n : Nat) (hn : n ≤ 2 ^ 26) (v len : Word)
    (hv : ∀ k < n, bytes k = v.extractLsb' (8 * k) 8) : Stores a n v len s ((s.storeBytes a bytes n).advance len) := by
  have he := State.storeBytes_eq s a bytes n
  refine ⟨fun k hk => ?_, fun b hb => ?_, ?_, ?_⟩
  · rw [← hv k hk]; exact State.byteAt_storeBytes_self s h a bytes n hn k hk
  · exact State.byteAt_storeBytes_other s h a bytes n b fun k hk e => hb ⟨k, hk, e⟩
  · rw [he]; rfl
  · rw [he]; exact Frame.of_update_psw rfl (fun _ _ => rfl) (fun _ _ => rfl) rfl

/-! ### Bits -/

/-- Everything the replacement of one bit of a byte does. -/
theorem getLsbD_withBit (t : Byte) (n : Nat) (b : Bool) (k : Nat) (hk : k < 8) :
    (withBit t n b).getLsbD k = if k = n then b else t.getLsbD k := by
  have h : (1#8 <<< n).getLsbD k = decide (k = n) := by
    rw [BitVec.getLsbD_shiftLeft, BitVec.getLsbD_one, Bool.eq_iff_iff]
    simp only [Bool.and_eq_true, Bool.not_eq_true', decide_eq_true_eq, decide_eq_false_iff_not]
    omega
  cases b
  · rw [show withBit t n false = t &&& ~~~(1#8 <<< n) from rfl, BitVec.getLsbD_and, BitVec.getLsbD_not, h,
      decide_eq_true hk]
    by_cases h1 : k = n
    · rw [decide_eq_true h1, if_pos h1]; simp
    · rw [decide_eq_false h1, if_neg h1]; simp
  · rw [show withBit t n true = t ||| (1#8 <<< n) from rfl, BitVec.getLsbD_or, h]
    by_cases h1 : k = n
    · rw [decide_eq_true h1, if_pos h1]; simp
    · rw [decide_eq_false h1, if_neg h1]; simp

/-- A bit instruction's flags: Z alone. -/
theorem frame_bitFlags (old : Bool) (psw : Word) {t : State} (h : t.psw = (bitFlags old).apply psw) :
    (∀ f : Flag, f ∉ [Flag.z] → flagOf t.psw f = flagOf psw f) ∧ flagOf t.psw .z = !old ∧
      ∀ k : Nat, 8 ≤ k → t.psw.getLsbD k = psw.getLsbD k := by
  rw [h]
  refine ⟨fun f hf => ?_, ?_, fun k hk => getLsbD_apply _ _ hk⟩
  · rw [flagOf_apply]; cases f <;> simp [FlagWrite.get, bitFlags] at hf ⊢
  · rw [flagOf_apply]; rfl

/-- Everything a bit modification does. -/
theorem rewritesBit_modifyBit (h : s.mem.wf = true) (a : Word) (n : Nat) (new : Bool → Bool) :
    RewritesBit a n new s ((s.modifyBit a n new).advance 4#32) := by
  let u := (s.afterRead 1 a).setFlags (bitFlags ((s.loadByte a).getLsbD n))
  let v := withBit (s.loadByte a) n (new ((s.loadByte a).getLsbD n))
  have hm : u.mem.wf = true := h
  have hv : (s.modifyBit a n new) = u.storeBytes a (fun _ => v) 1 := State.storeByte_eq u a v
  have he := State.storeBytes_eq u a (fun _ => v) 1
  have hb : ∀ b, ((u.storeBytes a (fun _ => v) 1).advance 4#32).byteAt b = (u.storeBytes a (fun _ => v) 1).byteAt b :=
    fun _ => rfl
  have hf := frame_bitFlags ((s.loadByte a).getLsbD n) s.psw
    (t := (u.storeBytes a (fun _ => v) 1).advance 4#32) (by rw [he]; rfl)
  rw [hv]
  refine ⟨fun hp => ?_, fun hr k hk => ?_, fun b hne => ?_, by rw [he]; rfl, ?_⟩
  · rw [hf.2.1, State.loadByte, State.byteRead_of_plain s 0 a hp]
  · have hp : (s.product.kindAt (s.product.cell a)).isPlain = true := by rw [hr]; rfl
    have hw := State.byteAt_storeBytes_self u hm a (fun _ => v) 1 (by decide) 0 (by decide)
    rw [BitVec.add_zero, if_pos (show u.product.kindAt (u.product.cell a) = .ram from hr)] at hw
    rw [hb, hw, getLsbD_withBit _ _ _ _ hk, State.loadByte, State.byteRead_of_plain s 0 a hp]
  · rw [hb, State.byteAt_storeBytes_other u hm a _ 1 b fun k hk e => hne ⟨k, hk, e⟩]; rfl
  · exact Frame.of_update_psw (by rw [he]; rfl) hf.1 hf.2.2 (by rw [he]; rfl)

/-- Everything a bit test does. -/
theorem testsBit_testBit (a : Word) (n : Nat) : TestsBit a n s ((s.testBit a n).advance 4#32) := by
  have hf := frame_bitFlags ((s.loadByte a).getLsbD n) s.psw (t := (s.testBit a n).advance 4#32) rfl
  refine ⟨fun hp => ?_, rfl, Frame.of_update_psw rfl hf.1 hf.2.2 rfl, SameMemory.of_fields rfl rfl⟩
  rw [hf.2.1, State.loadByte, State.byteRead_of_plain s 0 a hp]

end Sys2Proof.Machine
end

