-- ==== Sys2Proof/Laws/Encoding.lean ====
section
/-! SUPPORT. The fields of an encoded halfword are the fields it was built from, and the split immediates come back
whole (spec/30_encoding.md R121 to R133, R140 to R145). -/

namespace Sys2Proof

/-- A field that lies in the upper part of a concatenation. -/
theorem extract_append_high {m n : Nat} (a : BitVec m) (b : BitVec n) (k len : Nat) (h : n ≤ k) :
    (a ++ b).extractLsb' k len = a.extractLsb' (k - n) len := by
  apply BitVec.eq_of_getLsbD_eq
  intro i hi
  simp [BitVec.getLsbD_append, hi, show ¬(k + i < n) by omega, show k + i - n = k - n + i by omega]

/-- A field that lies in the lower part of a concatenation. -/
theorem extract_append_low {m n : Nat} (a : BitVec m) (b : BitVec n) (k len : Nat) (h : k + len ≤ n) :
    (a ++ b).extractLsb' k len = b.extractLsb' k len := by
  apply BitVec.eq_of_getLsbD_eq
  intro i hi
  simp [BitVec.getLsbD_append, hi, show k + i < n by omega]

/-- A bit of the upper part of a concatenation. -/
theorem bit_append_high {m n : Nat} (a : BitVec m) (b : BitVec n) (k : Nat) (h : n ≤ k) :
    (a ++ b).getLsbD k = a.getLsbD (k - n) := by
  simp [BitVec.getLsbD_append, show ¬ k < n by omega]

/-- A bit of the lower part of a concatenation. -/
theorem bit_append_low {m n : Nat} (a : BitVec m) (b : BitVec n) (k : Nat) (h : k < n) :
    (a ++ b).getLsbD k = b.getLsbD k := by
  simp only [BitVec.getLsbD_append, h, if_true]

/-! ### Format I (and the first halfword of VI, VII, IX, XI, XII) -/

variable (r2 r1 : Reg) (op : BitVec 6)

@[simp] theorem reg1Of_fmtI : reg1Of (fmtI r2 op r1) = r1 := by
  unfold reg1Of fmtI; rw [extract_append_low _ _ _ _ (by decide)]; simp

@[simp] theorem reg2Of_fmtI : reg2Of (fmtI r2 op r1) = r2 := by
  unfold reg2Of fmtI; rw [extract_append_high _ _ _ _ (by decide), extract_append_high _ _ _ _ (by decide)]; simp

@[simp] theorem rowOf_fmtI : rowOf (fmtI r2 op r1) = op.extractLsb' 2 4 := by
  unfold rowOf fmtI; rw [extract_append_high _ _ _ _ (by decide), extract_append_low _ _ _ _ (by decide)]

@[simp] theorem colOf_fmtI : colOf (fmtI r2 op r1) = op.extractLsb' 0 2 := by
  unfold colOf fmtI; rw [extract_append_high _ _ _ _ (by decide), extract_append_low _ _ _ _ (by decide)]

/-- A field within the low five bits. -/
theorem low_fmtI (k len : Nat) (h : k + len ≤ 5) : (fmtI r2 op r1).extractLsb' k len = r1.extractLsb' k len := by
  unfold fmtI; rw [extract_append_low _ _ _ _ h]

/-- A bit of the low five. -/
theorem bit_fmtI (k : Nat) (h : k < 5) : (fmtI r2 op r1).getLsbD k = r1.getLsbD k := by
  unfold fmtI; rw [bit_append_low _ _ _ h]

/-! ### Formats III, IV, V and VIII -/

@[simp] theorem rowOf_fmtIII (d : BitVec 9) (c : BitVec 4) : rowOf (fmtIII d c) = 0b1011#4 := by
  unfold rowOf fmtIII
  rw [extract_append_high _ _ _ _ (by decide), extract_append_high _ _ _ _ (by decide),
    extract_append_low _ _ _ _ (by decide)]
  rfl

@[simp] theorem cond_fmtIII (d : BitVec 9) (c : BitVec 4) : (fmtIII d c).extractLsb' 0 4 = c := by
  unfold fmtIII; rw [extract_append_low _ _ _ _ (by decide)]; simp

@[simp] theorem high_fmtIII (d : BitVec 9) (c : BitVec 4) : (fmtIII d c).extractLsb' 11 5 = d.extractLsb' 4 5 := by
  unfold fmtIII
  rw [extract_append_high _ _ _ _ (by decide), extract_append_high _ _ _ _ (by decide),
    extract_append_high _ _ _ _ (by decide)]
  simp

@[simp] theorem mid_fmtIII (d : BitVec 9) (c : BitVec 4) : (fmtIII d c).extractLsb' 4 3 = d.extractLsb' 1 3 := by
  unfold fmtIII
  rw [extract_append_high _ _ _ _ (by decide), extract_append_low _ _ _ _ (by decide)]
  simp

@[simp] theorem rowOf_fmtIV (op : BitVec 4) (low : BitVec 7) : rowOf (fmtIV r2 op low) = op := by
  unfold rowOf fmtIV; rw [extract_append_high _ _ _ _ (by decide), extract_append_low _ _ _ _ (by decide)]; simp

@[simp] theorem reg2Of_fmtIV (op : BitVec 4) (low : BitVec 7) : reg2Of (fmtIV r2 op low) = r2 := by
  unfold reg2Of fmtIV
  rw [extract_append_high _ _ _ _ (by decide), extract_append_high _ _ _ _ (by decide)]; simp

/-- A field within the low seven bits. -/
theorem low_fmtIV (op : BitVec 4) (low : BitVec 7) (k len : Nat) (h : k + len ≤ 7) :
    (fmtIV r2 op low).extractLsb' k len = low.extractLsb' k len := by
  unfold fmtIV; rw [extract_append_low _ _ _ _ h]

/-- A bit of the low seven. -/
theorem bit_fmtIV (op : BitVec 4) (low : BitVec 7) (k : Nat) (h : k < 7) :
    (fmtIV r2 op low).getLsbD k = low.getLsbD k := by
  unfold fmtIV; rw [bit_append_low _ _ _ h]

@[simp] theorem rowOf_fmtV (low : BitVec 6) : rowOf (fmtV r2 low) = 0b1111#4 := by
  unfold rowOf fmtV; rw [extract_append_high _ _ _ _ (by decide), extract_append_low _ _ _ _ (by decide)]; rfl

/-- Bit 6 of the first halfword of format V is 0, so its column is 00 or 01. -/
@[simp] theorem colOf_fmtV (low : BitVec 6) : colOf (fmtV r2 low) = 0#1 ++ low.extractLsb' 5 1 := by
  apply BitVec.eq_of_getLsbD_eq
  intro i hi
  unfold colOf fmtV
  rw [BitVec.getLsbD_extractLsb']
  have h2 : i = 0 ∨ i = 1 := by omega
  obtain rfl | rfl := h2
  · rw [bit_append_low _ _ _ (by decide), bit_append_low _ _ _ (by decide)]; simp
  · rw [bit_append_high _ _ _ (by decide), bit_append_low _ _ _ (by decide), bit_append_high _ _ _ (by decide)]; rfl

@[simp] theorem reg2Of_fmtV (low : BitVec 6) : reg2Of (fmtV r2 low) = r2 := by
  unfold reg2Of fmtV
  rw [extract_append_high _ _ _ _ (by decide), extract_append_high _ _ _ _ (by decide)]; simp

/-- A field within the low six bits. -/
theorem low_fmtV (low : BitVec 6) (k len : Nat) (h : k + len ≤ 6) :
    (fmtV r2 low).extractLsb' k len = low.extractLsb' k len := by
  unfold fmtV; rw [extract_append_low _ _ _ _ h]

@[simp] theorem rowOf_fmtVIII (sub : BitVec 2) (b : BitVec 3) : rowOf (fmtVIII sub b r1) = 0b1111#4 := by
  unfold rowOf fmtVIII
  rw [extract_append_high _ _ _ _ (by decide), extract_append_low _ _ _ _ (by decide)]; rfl

@[simp] theorem colOf_fmtVIII (sub : BitVec 2) (b : BitVec 3) : colOf (fmtVIII sub b r1) = 0b10#2 := by
  unfold colOf fmtVIII
  rw [extract_append_high _ _ _ _ (by decide), extract_append_low _ _ _ _ (by decide)]; rfl

@[simp] theorem reg1Of_fmtVIII (sub : BitVec 2) (b : BitVec 3) : reg1Of (fmtVIII sub b r1) = r1 := by
  unfold reg1Of fmtVIII; rw [extract_append_low _ _ _ _ (by decide)]; simp

@[simp] theorem sub_fmtVIII (sub : BitVec 2) (b : BitVec 3) : (fmtVIII sub b r1).extractLsb' 14 2 = sub := by
  unfold fmtVIII
  rw [extract_append_high _ _ _ _ (by decide), extract_append_high _ _ _ _ (by decide),
    extract_append_high _ _ _ _ (by decide)]
  simp

@[simp] theorem bit3_fmtVIII (sub : BitVec 2) (b : BitVec 3) : (fmtVIII sub b r1).extractLsb' 11 3 = b := by
  unfold fmtVIII
  rw [extract_append_high _ _ _ _ (by decide), extract_append_high _ _ _ _ (by decide),
    extract_append_low _ _ _ _ (by decide)]
  simp

/-! ### Second halfwords -/

@[simp] theorem high_dispHalf (d : BitVec 15) (b : BitVec 1) : (dispHalf d b).extractLsb' 1 15 = d := by
  unfold dispHalf; rw [extract_append_high _ _ _ _ (by decide)]; simp

@[simp] theorem bit_dispHalf (d : BitVec 15) (b : BitVec 1) : (dispHalf d b).getLsbD 0 = b.getLsbD 0 := by
  unfold dispHalf; rw [bit_append_low _ _ _ (by decide)]

@[simp] theorem reg3Of_fmtXI (r3 : Reg) (sub : BitVec 11) : reg3Of (fmtXI r3 sub) = r3 := by
  unfold reg3Of fmtXI; rw [extract_append_high _ _ _ _ (by decide)]; simp

/-- A field of the fixed bits 26..16. -/
theorem low_fmtXI (r3 : Reg) (sub : BitVec 11) (k len : Nat) (h : k + len ≤ 11) :
    (fmtXI r3 sub).extractLsb' k len = sub.extractLsb' k len := by
  unfold fmtXI; rw [extract_append_low _ _ _ _ h]

/-- A bit of the fixed bits 26..16. -/
theorem bit_fmtXI (r3 : Reg) (sub : BitVec 11) (k : Nat) (h : k < 11) :
    (fmtXI r3 sub).getLsbD k = sub.getLsbD k := by
  unfold fmtXI; rw [bit_append_low _ _ _ h]

/-! ### Register lists and conditions -/

/-- The list bits of the two halfwords make the list again. -/
theorem listOf_encoded (op imm5 sub : BitVec 5) (l : BitVec 12) :
    listOf (fmtXIIIlow op imm5 l) (fmtXIIIhigh l sub) = l := by
  have hi : ∀ k, 5 ≤ k → (fmtXIIIhigh l sub).getLsbD k = (listHigh l).getLsbD (k - 5) := fun k hk => by
    unfold fmtXIIIhigh; rw [bit_append_high _ _ _ hk]
  have h0 : (fmtXIIIlow op imm5 l).getLsbD 0 = l.getLsbD 10 := by
    unfold fmtXIIIlow; rw [bit_append_low _ _ _ (by decide)]; simp
  unfold listOf
  rw [hi 11 (by decide), hi 10 (by decide), hi 9 (by decide), hi 8 (by decide), hi 15 (by decide), hi 14 (by decide),
    hi 13 (by decide), hi 12 (by decide), hi 7 (by decide), hi 6 (by decide), hi 5 (by decide), h0]
  apply BitVec.eq_of_getLsbD_eq
  intro i hlt
  replace hlt : i < 12 := hlt
  interval_cases i <;> simp [listHigh, BitVec.ofBoolListLE]

@[simp] theorem Cond.ofBits_toBits (c : Cond) : Cond.ofBits c.toBits = c := by cases c <;> rfl

@[simp] theorem Cond.toBits_ofBits (b : BitVec 4) : (Cond.ofBits b).toBits = b := by
  obtain ⟨⟨n, hn⟩⟩ := b
  interval_cases n <;> rfl

/-! ### Split immediates (R140, R141) -/

/-- A value whose lowest bit is 0 is its upper bits with a 0. -/
theorem even_split {n : Nat} (d : BitVec (n + 1)) (h : evenDisp d = true) : d.extractLsb' 1 n ++ 0#1 = d := by
  have h0 : d.getLsbD 0 = false := by simpa [evenDisp] using h
  apply BitVec.eq_of_getLsbD_eq
  intro i hi
  by_cases hi0 : i = 0
  · subst hi0; rw [bit_append_low _ _ _ (by decide), h0]; rfl
  · rw [bit_append_high _ _ _ (by omega), BitVec.getLsbD_extractLsb', show 1 + (i - 1) = i by omega]
    simp [show i - 1 < n by omega]

/-- A value cut at bit `k` and joined again. -/
theorem split_at {m k : Nat} (d : BitVec (m + k)) : d.extractLsb' k m ++ d.extractLsb' 0 k = d := by
  apply BitVec.eq_of_getLsbD_eq
  intro i hi
  by_cases hik : i < k
  · rw [bit_append_low _ _ _ hik, BitVec.getLsbD_extractLsb']; simp [hik]
  · rw [bit_append_high _ _ _ (by omega), BitVec.getLsbD_extractLsb', show k + (i - k) = i by omega]
    simp [show i - k < m by omega]

end Sys2Proof
end

