-- ==== Sys2Proof/Laws/Stack.lean ====
section
/-! SUPPORT. The stack accesses of PREPARE and DISPOSE: which bytes a list of stores leaves, which registers a list of
loads writes (spec/47_special.md R340, R341, R346). -/

namespace Sys2Proof.Machine

variable (s : State)

/-! ### Register lists -/

theorem mem_listRegs {list12 : BitVec 12} {r : Reg} (h : r ∈ listRegs list12) : 20 ≤ r.toNat := by
  simp only [listRegs, List.mem_map, List.mem_filter, List.mem_range] at h
  obtain ⟨k, ⟨hk, _⟩, rfl⟩ := h
  rw [BitVec.toNat_ofNat]; omega

theorem nodup_listRegs (list12 : BitVec 12) : (listRegs list12).Nodup := by
  refine (List.Nodup.filter _ List.nodup_range).map_on ?_
  intro x hx y hy h
  have hx' := List.mem_range.mp (List.mem_filter.mp hx).1
  have hy' := List.mem_range.mp (List.mem_filter.mp hy).1
  have := congrArg BitVec.toNat h
  simp only [BitVec.toNat_ofNat] at this
  omega

theorem length_listRegs (list12 : BitVec 12) : (listRegs list12).length ≤ 12 := by
  rw [listRegs, List.length_map]
  exact (List.length_filter_le _ _).trans (by simp)

/-- The list bits of PREPARE and DISPOSE, bit by bit. -/
theorem fmtXIIIhigh_eq_listHalf (list12 : BitVec 12) (low : BitVec 5) :
    fmtXIIIhigh list12 low = listHalf list12 low := by
  have h : listHigh list12 = (list12.extractLsb' 4 1 ++ list12.extractLsb' 5 1 ++ list12.extractLsb' 6 1 ++
      list12.extractLsb' 7 1 ++ list12.extractLsb' 0 1 ++ list12.extractLsb' 1 1 ++ list12.extractLsb' 2 1 ++
      list12.extractLsb' 3 1 ++ list12.extractLsb' 8 1 ++ list12.extractLsb' 9 1 ++ list12.extractLsb' 11 1 :
      BitVec 11) := by
    apply BitVec.eq_of_getLsbD_eq
    intro i hi
    simp only [listHigh, BitVec.getLsbD_append, BitVec.getLsbD_extractLsb']
    interval_cases i <;> simp [BitVec.ofBoolListLE]
  unfold fmtXIIIhigh listHalf
  rw [h]

/-! ### Addresses -/

theorem toNat_stackAddr (a : Word) : (stackAddr a).toNat = a.toNat / 4 * 4 := by
  have h : stackAddr a = (a >>> 2) <<< 2 := by
    apply BitVec.eq_of_getLsbD_eq
    intro i hi
    rw [stackAddr, BitVec.getLsbD_and, BitVec.getLsbD_shiftLeft, BitVec.getLsbD_ushiftRight]
    interval_cases i <;> simp
  rw [h]
  have := a.isLt
  simp only [BitVec.toNat_shiftLeft, BitVec.toNat_ushiftRight, Nat.shiftRight_eq_div_pow, Nat.shiftLeft_eq]
  omega

/-- Masking a stack address commutes with moving it by whole words. -/
theorem stackAddr_add (a : Word) (m : Nat) :
    stackAddr (a + BitVec.ofNat 32 (4 * m)) = stackAddr a + BitVec.ofNat 32 (4 * m) := by
  apply BitVec.eq_of_toNat_eq
  have := a.isLt
  simp only [toNat_stackAddr, BitVec.toNat_add, BitVec.toNat_ofNat]
  omega

/-! ### PREPARE's stores -/

/-- Stores move memory and the model's record of stored cells, and nothing else. -/
theorem State.pushList_eq (l : List Reg) (a : Word) :
    s.pushList l a = { s with mem := (s.pushList l a).mem, unsynced := (s.pushList l a).unsynced } := by
  induction l generalizing s a with
  | nil => rfl
  | cons r l ih =>
    rw [State.pushList, ih, State.storeWord_eq, State.storeBytes_eq]

/-- The bytes that `j` words below `a` and on take are those of one frame. -/
theorem stackAddr_frame (a : Word) {n j : Nat} (hj : j < n) (k : Nat) :
    stackAddr (a - BitVec.ofNat 32 (4 * (j + 1))) + BitVec.ofNat 32 k =
      stackAddr (a - BitVec.ofNat 32 (4 * n)) + BitVec.ofNat 32 (4 * (n - 1 - j) + k) := by
  have h : a - BitVec.ofNat 32 (4 * (j + 1)) =
      a - BitVec.ofNat 32 (4 * n) + BitVec.ofNat 32 (4 * (n - 1 - j)) := by
    apply BitVec.eq_of_toNat_eq
    have := a.isLt
    simp only [BitVec.toNat_add, BitVec.toNat_sub, BitVec.toNat_ofNat]
    omega
  rw [h, stackAddr_add, BitVec.add_assoc, ← BitVec.ofNat_add]

/-- The next word down of a running address. -/
theorem sub_word (a : Word) (j : Nat) :
    a - 4#32 - BitVec.ofNat 32 (4 * (j + 1)) = a - BitVec.ofNat 32 (4 * (j + 1 + 1)) := by
  apply BitVec.eq_of_toNat_eq
  have := a.isLt
  simp only [BitVec.toNat_sub, BitVec.toNat_ofNat]
  omega

theorem State.gpr_storeWord (a v : Word) (r : Reg) : (s.storeWord a v).gpr r = s.gpr r := rfl

/-- A byte in none of the stored words reads as before. -/
theorem State.byteAt_pushList_other (h : s.mem.wf = true) (l : List Reg) (a b : Word)
    (hb : ∀ j < l.length, ∀ k < 4, s.product.cell b ≠
      s.product.cell (stackAddr (a - BitVec.ofNat 32 (4 * (j + 1))) + BitVec.ofNat 32 k)) :
    (s.pushList l a).byteAt b = s.byteAt b := by
  induction l generalizing s a with
  | nil => rfl
  | cons r l ih =>
    rw [State.pushList, ih _ (State.wf_storeWord _ h _ _) _ ?_, State.storeWord_eq]
    · refine State.byteAt_storeBytes_other s h _ _ 4 b fun k hk => ?_
      have h0 := hb 0 (by simp) k hk
      rwa [Nat.zero_add, Nat.mul_one] at h0
    · intro j hj k hk
      rw [sub_word, State.storeWord_product]
      exact hb (j + 1) (by simpa using hj) k hk

/-- The `j`-th register of the list stands in the `j`-th word below `a`, where that is plain RAM. -/
theorem State.byteAt_pushList_self (h : s.mem.wf = true) (l : List Reg) (hl : l.length ≤ 2 ^ 20) (a : Word) (j : Nat)
    (hj : j < l.length) (k : Nat) (hk : k < 4) :
    (s.pushList l a).byteAt (stackAddr (a - BitVec.ofNat 32 (4 * (j + 1))) + BitVec.ofNat 32 k) =
      if s.product.kindAt (s.product.cell (stackAddr (a - BitVec.ofNat 32 (4 * (j + 1))) + BitVec.ofNat 32 k)) = .ram
      then (s.gpr l[j]).extractLsb' (8 * k) 8
      else s.byteAt (stackAddr (a - BitVec.ofNat 32 (4 * (j + 1))) + BitVec.ofNat 32 k) := by
  induction l generalizing s a j with
  | nil => simp at hj
  | cons r l ih =>
    rw [List.length_cons] at hl hj
    rw [State.pushList]
    cases j with
    | zero =>
      have hs := State.byteAt_storeBytes_self s h (stackAddr (a - 4#32)) (fun k => (s.gpr r).extractLsb' (8 * k) 8) 4
        (by omega) k hk
      rw [← State.storeWord_eq] at hs
      rw [Nat.zero_add, Nat.mul_one, List.getElem_cons_zero, ← hs]
      refine State.byteAt_pushList_other _ (State.wf_storeWord _ h _ _) l _ _ ?_
      intro i hi k' hk' e
      have h0 := stackAddr_frame a (n := l.length + 1) (j := 0) (by omega) k
      rw [Nat.zero_add, Nat.mul_one] at h0
      rw [State.storeWord_product, sub_word, stackAddr_frame a (n := l.length + 1) (j := i + 1) (by omega), h0] at e
      have := Product.cell_add_inj _ _ (by omega) (by omega) e
      omega
    | succ j =>
      rw [← sub_word, ih _ (State.wf_storeWord _ h _ _) (by omega) (a - 4#32) j (by omega), State.gpr_storeWord]
      refine if_congr Iff.rfl rfl ?_
      rw [State.storeWord_eq]
      refine State.byteAt_storeBytes_other s h _ _ 4 _ fun k' hk' e => ?_
      rw [sub_word, stackAddr_frame a (n := l.length + 1) (j := j + 1) (by omega)] at e
      have h0 := stackAddr_frame a (n := l.length + 1) (j := 0) (by omega) k'
      rw [Nat.zero_add, Nat.mul_one] at h0
      rw [h0] at e
      have := Product.cell_add_inj _ _ (by omega) (by omega) e
      omega

/-! ### DISPOSE's loads -/

/-- Loads write registers and use free values, and nothing else. -/
theorem State.popList_eq (l : List Reg) (a : Word) :
    s.popList l a = { s with regs := (s.popList l a).regs, draws := (s.popList l a).draws } := by
  induction l generalizing s a with
  | nil => rfl
  | cons r l ih => rw [State.popList, ih]; rfl

/-- A register that is not in the list keeps its value. -/
theorem State.gpr_popList_other (l : List Reg) (a : Word) (r : Reg) (h : r ∉ l) :
    (s.popList l a).gpr r = s.gpr r := by
  induction l generalizing s a with
  | nil => rfl
  | cons q l ih =>
    rw [List.mem_cons, not_or] at h
    rw [State.popList, ih _ _ h.2, State.gpr_setReg_other _ h.1]; rfl

/-- The next word up of a running address. -/
theorem add_word (a : Word) (j : Nat) :
    a + 4#32 + BitVec.ofNat 32 (4 * j) = a + BitVec.ofNat 32 (4 * (j + 1)) := by
  apply BitVec.eq_of_toNat_eq
  have := a.isLt
  simp only [BitVec.toNat_add, BitVec.toNat_ofNat]
  omega

/-- The `j`-th register of the list has the `j`-th word from `a` up. -/
theorem State.gpr_popList_self (l : List Reg) (hn : l.Nodup) (h0 : 0#5 ∉ l) (a : Word) (j : Nat) (hj : j < l.length) :
    ∃ bytes, s.couldRead (stackAddr (a + BitVec.ofNat 32 (4 * j))) 4 bytes ∧
      (s.popList l a).gpr l[j] = wordOf bytes := by
  induction l generalizing s a j with
  | nil => simp at hj
  | cons r l ih =>
    rw [List.nodup_cons] at hn
    rw [List.mem_cons, not_or] at h0
    rw [State.popList]
    cases j with
    | zero =>
      refine ⟨_, State.couldRead_byteRead s _ 4, ?_⟩
      rw [List.getElem_cons_zero, State.gpr_popList_other _ _ _ _ hn.1, State.gpr_setReg_self,
        written_of_ne (Ne.symm h0.1), State.loadWord_eq]
      simp
    | succ j =>
      obtain ⟨bytes, hc, hg⟩ := ih ((s.afterRead 4 (stackAddr a)).setReg r (s.loadWord (stackAddr a))) hn.2 h0.2
        (a + 4#32) j (by simpa using hj)
      refine ⟨bytes, ?_, by simpa using hg⟩
      rw [← add_word]; exact hc

end Sys2Proof.Machine
end

