-- ==== Sys2Proof/Laws/Events.lean ====
section
/-! SUPPORT. What a boundary does, once for all statements about events: a fetch, an abandoned instruction, an entry,
which branch of the step is taken, a reset in the middle of an instruction, the record of stored cells
(spec/60_exceptions.md R413, R445; spec/20_memory.md R94, R95, R106; spec/70_reset_and_hazards.md R500). -/

namespace Sys2Proof.Machine

variable (s : State)

/-- A fetch moves the count of free values and nothing else. -/
theorem State.fetch_eq {s : State} {i : Instr} {u : State} (h : s.fetch = .instr i u) :
    ∃ d, u = { s with draws := d } := by
  unfold State.fetch at h
  simp only at h
  split at h <;> try cases h
  split at h <;> cases h
  exact ⟨_, rfl⟩

/-- ep settled moves general registers only. -/
theorem State.settleEP_eq (l : Bool) (w : Word) :
    s.settleEP l w = { s with regs := if l then s.regs else (s.setReg 30#5 w).regs } := by
  cases l <;> rfl

/-- ep settled leaves every other register. -/
theorem State.gpr_settleEP_other {r : Reg} (h : r ≠ 30#5) (l : Bool) (w : Word) :
    (s.settleEP l w).gpr r = s.gpr r := by
  cases l
  · exact State.gpr_setReg_other _ h _
  · rfl

/-- ep not loaded is ep as it was. -/
theorem State.gpr_settleEP_kept (w : Word) : (s.settleEP false w).gpr 30#5 = w :=
  State.gpr_setReg_self _ _ _

/-- An abandoned instruction moves general registers, memory and the model's own records, and nothing else. -/
theorem State.abandon_eq (b : Boundary) :
    ∃ r m d u, s.abandon b = { s with regs := r, mem := m, draws := d, unsynced := u } := by
  unfold State.abandon
  split
  · exact ⟨_, _, _, _, rfl⟩
  split
  next i t h =>
    obtain ⟨d, rfl⟩ := State.fetch_eq h
    split
    all_goals first
    | exact ⟨_, _, _, _, rfl⟩
    | (rw [State.pushList_eq]; exact ⟨_, _, _, _, rfl⟩)
    | (rw [State.settleEP_eq, State.popList_eq]; exact ⟨_, _, _, _, rfl⟩)
  · exact ⟨_, _, _, _, rfl⟩

/-- Where no instruction can be fetched, nothing is abandoned. -/
theorem State.abandon_of_no_instr (b : Boundary) (h : ∀ i u, s.fetch ≠ .instr i u) : s.abandon b = s := by
  unfold State.abandon
  split
  · rfl
  split
  · next i t e => exact absurd e (h i t)
  · rfl

/-- sp is not changed by an abandoned instruction. -/
theorem State.gpr_sp_abandon (b : Boundary) : (s.abandon b).gpr 3#5 = s.gpr 3#5 := by
  unfold State.abandon
  split
  · rfl
  split
  next i t h =>
    obtain ⟨d, rfl⟩ := State.fetch_eq h
    split
    all_goals first
    | rfl
    | (rw [State.pushList_eq]; rfl)
    | exact (State.gpr_settleEP_other _ (by decide) _ _).trans <| State.gpr_popList_other _ _ _ _ fun hm => by
        have := mem_listRegs (List.mem_reverse.mp (List.mem_of_mem_take hm))
        revert this; decide
  · rfl

/-- An executing boundary runs the instruction at the pc. -/
theorem step_of_executing (h : s.executing) : step s = s.met.runInstr := by
  obtain ⟨hr, hh, hp⟩ := h
  have hm : s.met.halted = false := hh
  unfold step State.boundary
  show (match State.react s.input s.met with | .become t => _ | .run t => _ | .refuse r => _) = _
  unfold State.react
  rw [hr]
  rcases hp with hp | ⟨hd, ha, hc⟩
  · simp [hp, State.proceed, hm]
  · cases he : s.met.pendingEvent with
    | none => simp [State.proceed, hm]
    | some e =>
      cases e with
      | debugTrap =>
        exfalso
        unfold State.pendingEvent at he
        rw [ha] at he
        simp only [Bool.false_eq_true, if_false] at he
        split at he <;> try cases he
        split at he <;> try cases he
        split at he <;> try cases he
        split at he <;> try cases he
        split at he <;> cases he
      | _ => simp [State.proceed, hm, hc, hd]

/-- A boundary that takes an interrupt enters it. -/
theorem step_of_sampling (e : Event) (h : s.sampling) (hp : s.met.pendingEvent = some e) (hd : e ≠ .debugTrap) :
    step s = .next (s.met.enter e (if s.halted then {} else s.input)) := by
  obtain ⟨hr, hf, _, hc⟩ := h
  have hm : s.met.halted = s.halted := rfl
  unfold step State.boundary
  show (match State.react s.input s.met with | .become t => _ | .run t => _ | .refuse r => _) = _
  unfold State.react
  rw [hr, hp]
  cases e with
  | debugTrap => exact absurd rfl hd
  | _ => rcases hc with hc | hc <;> simp [hf, hm, hc]

/-- What an entry leaves unchanged, beside the registers it saves into. -/
theorem EventFrame.of_enter (e : Event) (b : Boundary) (flags : List Flag) (special : List (BitVec 5))
    (hf : ∀ f, f ∉ flags → f ∉ [Flag.ep, .id] ∧ ((s.met.eventEntry e).setsNP = true → f ≠ .np))
    (hs : match (s.met.eventEntry e).pair with
      | .ei => [0#5, 1#5] ⊆ special
      | .fe => [2#5, 3#5] ⊆ special
      | .db => [18#5, 19#5, 21#5] ⊆ special)
    (hc : (s.met.eventEntry e).cause = .none ∨ 4#5 ∈ special) : EventFrame flags special s (s.met.enter e b) := by
  obtain ⟨r, m, d, u, ha⟩ := State.abandon_eq s.met b
  unfold State.enter
  rw [ha]
  generalize s.met.eventEntry e = y at *
  refine ⟨fun f h => ?_, fun k hk => getLsbD_enterPSW _ _ _ hk, fun k h5 hk => ?_, rfl, rfl⟩
  · refine (flagOf_enterPSW _ _ _ f).trans ?_
    have := hf f h
    cases f <;> simp_all <;> rfl
  · cases hy : y.pair <;> simp only [hy] at hs
    all_goals
      apply State.sysReg_of_field
      all_goals
        rintro rfl
        first
        | exact absurd rfl h5
        | exact absurd (hs (by decide)) hk
        | (rcases hc with hc | hc
           · show writeCause y.cause _ = _; rw [hc]; rfl
           · exact absurd hc hk)
        | (simp [State.takeException, hy, State.jump]; done)
        | (simp [State.takeException, hy, State.jump]; rfl)

/-! ### Reset in the middle of an instruction (spec/70_reset_and_hazards.md R500; log 11) -/

/-- The bytes of a span. -/
theorem mem_byteSpan {a b : Word} {n : Nat} : b ∈ byteSpan a n ↔ ∃ k < n, b = a + BitVec.ofNat 32 k := by
  simp [byteSpan, eq_comm]

theorem State.leaveByte_eq (done : Memory) (f : ByteFate) (a : Word) :
    ∃ m d u, s.leaveByte done f a = { s with mem := m, draws := d, unsynced := u } := by
  cases f <;> exact ⟨_, _, _, rfl⟩

theorem State.leaveBytes_eq (done : Memory) (fates : List ByteFate) (l : List Word) :
    ∃ m d u, s.leaveBytes done fates l = { s with mem := m, draws := d, unsynced := u } := by
  induction fates generalizing s l with
  | nil => exact ⟨_, _, _, rfl⟩
  | cons f fates ih =>
    cases l with
    | nil => exact ⟨_, _, _, rfl⟩
    | cons a l =>
      obtain ⟨m, d, u, h⟩ := State.leaveByte_eq s done f a
      rw [State.leaveBytes, h]
      obtain ⟨m', d', u', h'⟩ := ih { s with mem := m, draws := d, unsynced := u } l
      exact ⟨m', d', u', h'⟩

@[simp] theorem State.leaveByte_product (done : Memory) (f : ByteFate) (a : Word) :
    (s.leaveByte done f a).product = s.product := by cases f <;> rfl

theorem State.wf_leaveByte (h : s.mem.wf = true) (done : Memory) (f : ByteFate) (a : Word) :
    (s.leaveByte done f a).mem.wf = true := by
  cases f
  · exact h
  · exact State.wf_writeByte s h _ _
  · exact State.wf_writeByte s h _ _

theorem State.wf_leaveBytes (h : s.mem.wf = true) (done : Memory) (fates : List ByteFate) (l : List Word) :
    (s.leaveBytes done fates l).mem.wf = true := by
  induction fates generalizing s l with
  | nil => exact h
  | cons f fates ih =>
    cases l with
    | nil => exact h
    | cons a l => exact ih _ (State.wf_leaveByte s h _ _ _) l

/-- A byte cut short leaves every other byte as before. -/
theorem State.byteAt_leaveByte_other (h : s.mem.wf = true) (done : Memory) (f : ByteFate) (a b : Word)
    (hb : s.product.cell b ≠ s.product.cell a) : (s.leaveByte done f a).byteAt b = s.byteAt b := by
  cases f
  · rfl
  · exact (State.byteAt_writeByte s h _ _ b).trans (if_neg fun e => hb e.1)
  · exact (State.byteAt_writeByte s h _ _ b).trans (if_neg fun e => hb e.1)

/-- A byte that is none of those cut short reads as before. -/
theorem State.byteAt_leaveBytes_other (h : s.mem.wf = true) (done : Memory) (fates : List ByteFate) (l : List Word)
    (b : Word) (hb : ∀ a ∈ l, s.product.cell b ≠ s.product.cell a) :
    (s.leaveBytes done fates l).byteAt b = s.byteAt b := by
  induction fates generalizing s l with
  | nil => rfl
  | cons f fates ih =>
    cases l with
    | nil => rfl
    | cons a l =>
      rw [State.leaveBytes, ih _ (State.wf_leaveByte s h _ _ _) l fun x hx => ?_,
        State.byteAt_leaveByte_other s h _ _ _ _ (hb a (by simp))]
      rw [State.leaveByte_product]; exact hb x (by simp [hx])

/-- A byte of an instruction cut short reads as its fate says. -/
theorem State.byteAt_leaveBytes_self (h : s.mem.wf = true) (done : Memory) (fates : List ByteFate) (l : List Word)
    (hl : l.Pairwise fun a b => s.product.cell a ≠ s.product.cell b) (k : Nat) (a : Word) (ha : l[k]? = some a) :
    (s.product.kindAt (s.product.cell a) ≠ .ram ∨ fates[k]? = none ∨ fates[k]? = some .kept →
      (s.leaveBytes done fates l).byteAt a = s.byteAt a) ∧
    (fates[k]? = some .stored → s.product.kindAt (s.product.cell a) = .ram →
      (s.leaveBytes done fates l).byteAt a = done.read (s.product.cell a)) := by
  induction fates generalizing s l k with
  | nil => exact ⟨fun _ => rfl, fun e => by simp at e⟩
  | cons f fates ih =>
    cases l with
    | nil => simp at ha
    | cons x l =>
      rw [List.pairwise_cons] at hl
      rw [State.leaveBytes]
      cases k with
      | zero =>
        simp only [List.getElem?_cons_zero, Option.some.injEq] at ha
        subst ha
        have := State.byteAt_leaveBytes_other _ (State.wf_leaveByte s h done f x) done fates l x
          (by rw [State.leaveByte_product]; exact hl.1)
        rw [this]
        constructor
        · rintro (e | e | e)
          · cases f
            · rfl
            · exact (State.byteAt_writeByte s h _ _ x).trans (if_neg fun y => e y.2)
            · exact (State.byteAt_writeByte s h _ _ x).trans (if_neg fun y => e y.2)
          · simp at e
          · simp at e; subst e; rfl
        · intro e hr
          simp at e; subst e
          exact (State.byteAt_writeByte s h _ _ x).trans (if_pos ⟨rfl, hr⟩)
      | succ k =>
        simp only [List.getElem?_cons_succ] at ha ⊢
        have hx : s.product.cell a ≠ s.product.cell x := (hl.1 a (List.mem_of_getElem? ha)).symm
        have := ih (s.leaveByte done f x) (State.wf_leaveByte s h _ _ _) l
          (by rw [State.leaveByte_product]; exact hl.2) k ha
        rw [State.leaveByte_product, State.byteAt_leaveByte_other s h _ _ _ _ hx] at this
        exact this

/-- The cells of a span of bytes are distinct. -/
theorem pairwise_byteSpan (p : Product) (a : Word) {n : Nat} (hn : n ≤ 2 ^ 26) :
    (byteSpan a n).Pairwise fun x y => p.cell x ≠ p.cell y := by
  unfold byteSpan
  rw [List.pairwise_map]
  exact List.pairwise_lt_range.imp_of_mem fun hi hj hlt e => by
    have := Product.cell_add_inj p a (by have := List.mem_range.mp hi; omega) (by have := List.mem_range.mp hj; omega) e
    omega

/-- The bytes that PREPARE stores are those of one frame. -/
theorem mem_frameAddrs {n : Nat} {b : Word} :
    b ∈ s.frameAddrs n ↔
      ∃ j < n, ∃ k < 4, b = stackAddr (s.gpr 3#5 - BitVec.ofNat 32 (4 * (j + 1))) + BitVec.ofNat 32 k := by
  unfold State.frameAddrs
  simp only [List.mem_flatMap, List.mem_range, mem_byteSpan]
  exact Iff.rfl

theorem pairwise_frameAddrs {n : Nat} (hn : n ≤ 2 ^ 20) :
    (s.frameAddrs n).Pairwise fun x y => s.product.cell x ≠ s.product.cell y := by
  unfold State.frameAddrs
  rw [List.pairwise_flatMap]
  refine ⟨fun j _ => pairwise_byteSpan _ _ (by decide), ?_⟩
  refine List.pairwise_lt_range.imp_of_mem fun {i j} hi hj hlt x hx y hy e => ?_
  rw [mem_byteSpan] at hx hy
  obtain ⟨k, hk, rfl⟩ := hx
  obtain ⟨l, hl, rfl⟩ := hy
  have hi := List.mem_range.mp hi
  have hj := List.mem_range.mp hj
  rw [stackAddr_frame _ hi, stackAddr_frame _ hj] at e
  have := Product.cell_add_inj _ _ (by omega) (by omega) e
  omega

/-- The bytes that an instruction stores lie in distinct cells. -/
theorem pairwise_storeAddrs (i : Instr) :
    (storeAddrs i s).Pairwise fun x y => s.product.cell x ≠ s.product.cell y := by
  cases i
  all_goals first
  | exact List.Pairwise.nil
  | exact pairwise_byteSpan _ _ (by decide)
  | exact pairwise_frameAddrs s ((length_listRegs _).trans (by decide))

/-- An instruction cut short moves memory and the model's own records, and nothing else. -/
theorem State.cutShort_eq (fates : List ByteFate) :
    ∃ m d u, s.cutShort fates = { s with mem := m, draws := d, unsynced := u } := by
  unfold State.cutShort
  split
  · exact ⟨_, _, _, rfl⟩
  split
  next i t h =>
    obtain ⟨d, rfl⟩ := State.fetch_eq h
    split
    · obtain ⟨m, d, u, h⟩ := State.leaveBytes_eq _ _ fates _
      rw [h]; exact ⟨_, _, _, rfl⟩
    · exact ⟨_, _, _, rfl⟩
  · exact ⟨_, _, _, rfl⟩

theorem State.wf_cutShort (h : s.mem.wf = true) (fates : List ByteFate) : (s.cutShort fates).mem.wf = true := by
  unfold State.cutShort
  split
  · exact h
  split
  next i t hf =>
    obtain ⟨d, rfl⟩ := State.fetch_eq hf
    split
    · exact State.wf_leaveBytes _ (by exact h) _ _ _
    · exact h
  · exact h

/-- A boundary with the reset input active enters reset. -/
theorem step_of_reset (h : s.input.reset = true) :
    step s = .next (if s.halted then s.met else s.met.cutShort s.input.cut).resetEntry := by
  unfold step State.boundary
  show (match State.react s.input s.met with | .become t => _ | .run t => _ | .refuse r => _) = _
  unfold State.react
  rw [if_pos h]
  rfl

/-! ### The record of stored cells (spec/20_memory.md R106; log 12) -/

/-- A store of `n` bytes records their cells. -/
theorem State.mem_unsynced_storeBytes (a : Word) (bytes : Nat → Byte) (n c : Nat) :
    c ∈ (s.storeBytes a bytes n).unsynced ↔ c ∈ s.unsynced ∨ ∃ b ∈ byteSpan a n, s.product.cell b = c := by
  induction n with
  | zero => simp [State.storeBytes, byteSpan]
  | succ n ih =>
    rw [State.storeBytes, State.writeByte_unsynced, List.mem_cons, ih, State.storeBytes_product]
    constructor
    · rintro (rfl | h | ⟨b, hb, rfl⟩)
      · exact .inr ⟨_, mem_byteSpan.mpr ⟨n, by omega, rfl⟩, rfl⟩
      · exact .inl h
      · obtain ⟨k, hk, rfl⟩ := mem_byteSpan.mp hb
        exact .inr ⟨_, mem_byteSpan.mpr ⟨k, by omega, rfl⟩, rfl⟩
    · rintro (h | ⟨b, hb, rfl⟩)
      · exact .inr (.inl h)
      · obtain ⟨k, hk, rfl⟩ := mem_byteSpan.mp hb
        by_cases e : k = n
        · subst e; exact .inl rfl
        · exact .inr (.inr ⟨_, mem_byteSpan.mpr ⟨k, by omega, rfl⟩, rfl⟩)

/-- The bytes of PREPARE's first store, then those of the others, from the next running address. -/
theorem frameAddrs_sub (a : Word) (n : Nat) :
    ((List.range (n + 1)).flatMap fun j => byteSpan (stackAddr (a - BitVec.ofNat 32 (4 * (j + 1)))) 4) =
      byteSpan (stackAddr (a - 4#32)) 4 ++
        (List.range n).flatMap fun j => byteSpan (stackAddr (a - 4#32 - BitVec.ofNat 32 (4 * (j + 1)))) 4 := by
  rw [List.range_succ_eq_map, List.flatMap_cons, List.flatMap_map]
  simp only [sub_word, Nat.zero_add, Nat.mul_one, Nat.succ_eq_add_one]

/-- PREPARE's stores record their cells. -/
theorem State.mem_unsynced_pushList (l : List Reg) (a : Word) (c : Nat) :
    c ∈ (s.pushList l a).unsynced ↔ c ∈ s.unsynced ∨
      ∃ b ∈ (List.range l.length).flatMap (fun j => byteSpan (stackAddr (a - BitVec.ofNat 32 (4 * (j + 1)))) 4),
        s.product.cell b = c := by
  induction l generalizing s a with
  | nil => simp [State.pushList]
  | cons r l ih =>
    rw [State.pushList, ih, State.storeWord_eq, State.mem_unsynced_storeBytes, State.storeBytes_product,
      List.length_cons, frameAddrs_sub]
    simp only [List.mem_append, or_and_right, exists_or, or_assoc]

/-- The first accesses of PREPARE store the first bytes of its frame. -/
theorem State.take_frameAddrs (n m : Nat) : (s.frameAddrs n).take (4 * m) = s.frameAddrs (min m n) := by
  unfold State.frameAddrs
  generalize s.gpr regSP = a
  induction m generalizing n a with
  | zero => simp
  | succ m ih =>
    cases n with
    | zero => simp
    | succ n =>
      have h : 4 * (m + 1) = (byteSpan (stackAddr (a - 4#32)) 4).length + 4 * m := by simp [byteSpan]; omega
      rw [frameAddrs_sub, Nat.succ_min_succ, frameAddrs_sub, h, List.take_length_add_append, ih]

end Sys2Proof.Machine
end

