-- ==== Sys2Proof/Laws/PerInstr.lean ====
section
/-! SUPPORT. The family of statements made for every instruction: its encoding has the length the spec gives it
(spec/30_encoding.md R135). -/

namespace Sys2Proof.Laws

/-- The encoding is as long as the instruction. -/
def EncodingLength.Statement (i : Instr) : Prop := 2 * (encode i).length = i.length

theorem EncodingLength.ldB (disp16 : BitVec 16) (reg1 reg2 : Reg) :
    EncodingLength.Statement (.ldB disp16 reg1 reg2) := rfl
theorem EncodingLength.ldBu (disp16 : BitVec 16) (reg1 reg2 : Reg) :
    EncodingLength.Statement (.ldBu disp16 reg1 reg2) := rfl
theorem EncodingLength.ldH (disp16 : BitVec 16) (reg1 reg2 : Reg) :
    EncodingLength.Statement (.ldH disp16 reg1 reg2) := rfl
theorem EncodingLength.ldHu (disp16 : BitVec 16) (reg1 reg2 : Reg) :
    EncodingLength.Statement (.ldHu disp16 reg1 reg2) := rfl
theorem EncodingLength.ldW (disp16 : BitVec 16) (reg1 reg2 : Reg) :
    EncodingLength.Statement (.ldW disp16 reg1 reg2) := rfl
theorem EncodingLength.sldB (disp7 : BitVec 7) (reg2 : Reg) :
    EncodingLength.Statement (.sldB disp7 reg2) := rfl
theorem EncodingLength.sldBu (disp4 : BitVec 4) (reg2 : Reg) :
    EncodingLength.Statement (.sldBu disp4 reg2) := rfl
theorem EncodingLength.sldH (disp8 : BitVec 8) (reg2 : Reg) :
    EncodingLength.Statement (.sldH disp8 reg2) := rfl
theorem EncodingLength.sldHu (disp5 : BitVec 5) (reg2 : Reg) :
    EncodingLength.Statement (.sldHu disp5 reg2) := rfl
theorem EncodingLength.sldW (disp8 : BitVec 8) (reg2 : Reg) :
    EncodingLength.Statement (.sldW disp8 reg2) := rfl
theorem EncodingLength.sstB (reg2 : Reg) (disp7 : BitVec 7) :
    EncodingLength.Statement (.sstB reg2 disp7) := rfl
theorem EncodingLength.sstH (reg2 : Reg) (disp8 : BitVec 8) :
    EncodingLength.Statement (.sstH reg2 disp8) := rfl
theorem EncodingLength.sstW (reg2 : Reg) (disp8 : BitVec 8) :
    EncodingLength.Statement (.sstW reg2 disp8) := rfl
theorem EncodingLength.stB (reg2 : Reg) (disp16 : BitVec 16) (reg1 : Reg) :
    EncodingLength.Statement (.stB reg2 disp16 reg1) := rfl
theorem EncodingLength.stH (reg2 : Reg) (disp16 : BitVec 16) (reg1 : Reg) :
    EncodingLength.Statement (.stH reg2 disp16 reg1) := rfl
theorem EncodingLength.stW (reg2 : Reg) (disp16 : BitVec 16) (reg1 : Reg) :
    EncodingLength.Statement (.stW reg2 disp16 reg1) := rfl
theorem EncodingLength.mulReg (reg1 reg2 reg3 : Reg) :
    EncodingLength.Statement (.mulReg reg1 reg2 reg3) := rfl
theorem EncodingLength.mulImm9 (imm9 : BitVec 9) (reg2 reg3 : Reg) :
    EncodingLength.Statement (.mulImm9 imm9 reg2 reg3) := rfl
theorem EncodingLength.muluReg (reg1 reg2 reg3 : Reg) :
    EncodingLength.Statement (.muluReg reg1 reg2 reg3) := rfl
theorem EncodingLength.muluImm9 (imm9 : BitVec 9) (reg2 reg3 : Reg) :
    EncodingLength.Statement (.muluImm9 imm9 reg2 reg3) := rfl
theorem EncodingLength.mulhReg (reg1 reg2 : Reg) :
    EncodingLength.Statement (.mulhReg reg1 reg2) := rfl
theorem EncodingLength.mulhImm5 (imm5 : BitVec 5) (reg2 : Reg) :
    EncodingLength.Statement (.mulhImm5 imm5 reg2) := rfl
theorem EncodingLength.mulhi (imm16 : BitVec 16) (reg1 reg2 : Reg) :
    EncodingLength.Statement (.mulhi imm16 reg1 reg2) := rfl
theorem EncodingLength.addReg (reg1 reg2 : Reg) :
    EncodingLength.Statement (.addReg reg1 reg2) := rfl
theorem EncodingLength.addImm5 (imm5 : BitVec 5) (reg2 : Reg) :
    EncodingLength.Statement (.addImm5 imm5 reg2) := rfl
theorem EncodingLength.addi (imm16 : BitVec 16) (reg1 reg2 : Reg) :
    EncodingLength.Statement (.addi imm16 reg1 reg2) := rfl
theorem EncodingLength.cmovReg (cccc : Cond) (reg1 reg2 reg3 : Reg) :
    EncodingLength.Statement (.cmovReg cccc reg1 reg2 reg3) := rfl
theorem EncodingLength.cmovImm5 (cccc : Cond) (imm5 : BitVec 5) (reg2 reg3 : Reg) :
    EncodingLength.Statement (.cmovImm5 cccc imm5 reg2 reg3) := rfl
theorem EncodingLength.cmpReg (reg1 reg2 : Reg) :
    EncodingLength.Statement (.cmpReg reg1 reg2) := rfl
theorem EncodingLength.cmpImm5 (imm5 : BitVec 5) (reg2 : Reg) :
    EncodingLength.Statement (.cmpImm5 imm5 reg2) := rfl
theorem EncodingLength.div (reg1 reg2 reg3 : Reg) :
    EncodingLength.Statement (.div reg1 reg2 reg3) := rfl
theorem EncodingLength.divhReg2 (reg1 reg2 : Reg) :
    EncodingLength.Statement (.divhReg2 reg1 reg2) := rfl
theorem EncodingLength.divhReg3 (reg1 reg2 reg3 : Reg) :
    EncodingLength.Statement (.divhReg3 reg1 reg2 reg3) := rfl
theorem EncodingLength.divhu (reg1 reg2 reg3 : Reg) :
    EncodingLength.Statement (.divhu reg1 reg2 reg3) := rfl
theorem EncodingLength.divu (reg1 reg2 reg3 : Reg) :
    EncodingLength.Statement (.divu reg1 reg2 reg3) := rfl
theorem EncodingLength.movReg (reg1 reg2 : Reg) :
    EncodingLength.Statement (.movReg reg1 reg2) := rfl
theorem EncodingLength.movImm5 (imm5 : BitVec 5) (reg2 : Reg) :
    EncodingLength.Statement (.movImm5 imm5 reg2) := rfl
theorem EncodingLength.movImm32 (imm32 : BitVec 32) (reg1 : Reg) :
    EncodingLength.Statement (.movImm32 imm32 reg1) := rfl
theorem EncodingLength.movea (imm16 : BitVec 16) (reg1 reg2 : Reg) :
    EncodingLength.Statement (.movea imm16 reg1 reg2) := rfl
theorem EncodingLength.movhi (imm16 : BitVec 16) (reg1 reg2 : Reg) :
    EncodingLength.Statement (.movhi imm16 reg1 reg2) := rfl
theorem EncodingLength.sasf (cccc : Cond) (reg2 : Reg) :
    EncodingLength.Statement (.sasf cccc reg2) := rfl
theorem EncodingLength.setf (cccc : Cond) (reg2 : Reg) :
    EncodingLength.Statement (.setf cccc reg2) := rfl
theorem EncodingLength.sub (reg1 reg2 : Reg) :
    EncodingLength.Statement (.sub reg1 reg2) := rfl
theorem EncodingLength.subr (reg1 reg2 : Reg) :
    EncodingLength.Statement (.subr reg1 reg2) := rfl
theorem EncodingLength.sataddReg (reg1 reg2 : Reg) :
    EncodingLength.Statement (.sataddReg reg1 reg2) := rfl
theorem EncodingLength.sataddImm5 (imm5 : BitVec 5) (reg2 : Reg) :
    EncodingLength.Statement (.sataddImm5 imm5 reg2) := rfl
theorem EncodingLength.satsub (reg1 reg2 : Reg) :
    EncodingLength.Statement (.satsub reg1 reg2) := rfl
theorem EncodingLength.satsubi (imm16 : BitVec 16) (reg1 reg2 : Reg) :
    EncodingLength.Statement (.satsubi imm16 reg1 reg2) := rfl
theorem EncodingLength.satsubr (reg1 reg2 : Reg) :
    EncodingLength.Statement (.satsubr reg1 reg2) := rfl
theorem EncodingLength.andReg (reg1 reg2 : Reg) :
    EncodingLength.Statement (.andReg reg1 reg2) := rfl
theorem EncodingLength.andi (imm16 : BitVec 16) (reg1 reg2 : Reg) :
    EncodingLength.Statement (.andi imm16 reg1 reg2) := rfl
theorem EncodingLength.bsh (reg2 reg3 : Reg) :
    EncodingLength.Statement (.bsh reg2 reg3) := rfl
theorem EncodingLength.bsw (reg2 reg3 : Reg) :
    EncodingLength.Statement (.bsw reg2 reg3) := rfl
theorem EncodingLength.hsw (reg2 reg3 : Reg) :
    EncodingLength.Statement (.hsw reg2 reg3) := rfl
theorem EncodingLength.notReg (reg1 reg2 : Reg) :
    EncodingLength.Statement (.notReg reg1 reg2) := rfl
theorem EncodingLength.orReg (reg1 reg2 : Reg) :
    EncodingLength.Statement (.orReg reg1 reg2) := rfl
theorem EncodingLength.ori (imm16 : BitVec 16) (reg1 reg2 : Reg) :
    EncodingLength.Statement (.ori imm16 reg1 reg2) := rfl
theorem EncodingLength.sarReg (reg1 reg2 : Reg) :
    EncodingLength.Statement (.sarReg reg1 reg2) := rfl
theorem EncodingLength.sarImm5 (imm5 : BitVec 5) (reg2 : Reg) :
    EncodingLength.Statement (.sarImm5 imm5 reg2) := rfl
theorem EncodingLength.shlReg (reg1 reg2 : Reg) :
    EncodingLength.Statement (.shlReg reg1 reg2) := rfl
theorem EncodingLength.shlImm5 (imm5 : BitVec 5) (reg2 : Reg) :
    EncodingLength.Statement (.shlImm5 imm5 reg2) := rfl
theorem EncodingLength.shrReg (reg1 reg2 : Reg) :
    EncodingLength.Statement (.shrReg reg1 reg2) := rfl
theorem EncodingLength.shrImm5 (imm5 : BitVec 5) (reg2 : Reg) :
    EncodingLength.Statement (.shrImm5 imm5 reg2) := rfl
theorem EncodingLength.sxb (reg1 : Reg) :
    EncodingLength.Statement (.sxb reg1) := rfl
theorem EncodingLength.sxh (reg1 : Reg) :
    EncodingLength.Statement (.sxh reg1) := rfl
theorem EncodingLength.tst (reg1 reg2 : Reg) :
    EncodingLength.Statement (.tst reg1 reg2) := rfl
theorem EncodingLength.xorReg (reg1 reg2 : Reg) :
    EncodingLength.Statement (.xorReg reg1 reg2) := rfl
theorem EncodingLength.xori (imm16 : BitVec 16) (reg1 reg2 : Reg) :
    EncodingLength.Statement (.xori imm16 reg1 reg2) := rfl
theorem EncodingLength.zxb (reg1 : Reg) :
    EncodingLength.Statement (.zxb reg1) := rfl
theorem EncodingLength.zxh (reg1 : Reg) :
    EncodingLength.Statement (.zxh reg1) := rfl
theorem EncodingLength.bcond (cccc : Cond) (disp9 : BitVec 9) :
    EncodingLength.Statement (.bcond cccc disp9) := rfl
theorem EncodingLength.jarl (disp22 : BitVec 22) (reg2 : Reg) :
    EncodingLength.Statement (.jarl disp22 reg2) := rfl
theorem EncodingLength.jmp (reg1 : Reg) :
    EncodingLength.Statement (.jmp reg1) := rfl
theorem EncodingLength.jr (disp22 : BitVec 22) :
    EncodingLength.Statement (.jr disp22) := rfl
theorem EncodingLength.set1Disp (bit3 : BitVec 3) (disp16 : BitVec 16) (reg1 : Reg) :
    EncodingLength.Statement (.set1Disp bit3 disp16 reg1) := rfl
theorem EncodingLength.set1Reg (reg2 reg1 : Reg) :
    EncodingLength.Statement (.set1Reg reg2 reg1) := rfl
theorem EncodingLength.not1Disp (bit3 : BitVec 3) (disp16 : BitVec 16) (reg1 : Reg) :
    EncodingLength.Statement (.not1Disp bit3 disp16 reg1) := rfl
theorem EncodingLength.not1Reg (reg2 reg1 : Reg) :
    EncodingLength.Statement (.not1Reg reg2 reg1) := rfl
theorem EncodingLength.clr1Disp (bit3 : BitVec 3) (disp16 : BitVec 16) (reg1 : Reg) :
    EncodingLength.Statement (.clr1Disp bit3 disp16 reg1) := rfl
theorem EncodingLength.clr1Reg (reg2 reg1 : Reg) :
    EncodingLength.Statement (.clr1Reg reg2 reg1) := rfl
theorem EncodingLength.tst1Disp (bit3 : BitVec 3) (disp16 : BitVec 16) (reg1 : Reg) :
    EncodingLength.Statement (.tst1Disp bit3 disp16 reg1) := rfl
theorem EncodingLength.tst1Reg (reg2 reg1 : Reg) :
    EncodingLength.Statement (.tst1Reg reg2 reg1) := rfl
theorem EncodingLength.callt (imm6 : BitVec 6) :
    EncodingLength.Statement (.callt imm6) := rfl
theorem EncodingLength.ctret :
    EncodingLength.Statement (.ctret) := rfl
theorem EncodingLength.di :
    EncodingLength.Statement (.di) := rfl
theorem EncodingLength.dispose (imm5 : BitVec 5) (list12 : BitVec 12) :
    EncodingLength.Statement (.dispose imm5 list12) := rfl
theorem EncodingLength.disposeJump (imm5 : BitVec 5) (list12 : BitVec 12) (reg1 : Reg) :
    EncodingLength.Statement (.disposeJump imm5 list12 reg1) := rfl
theorem EncodingLength.ei :
    EncodingLength.Statement (.ei) := rfl
theorem EncodingLength.halt :
    EncodingLength.Statement (.halt) := rfl
theorem EncodingLength.ldsr (reg2 : Reg) (regID : BitVec 5) :
    EncodingLength.Statement (.ldsr reg2 regID) := rfl
theorem EncodingLength.nop :
    EncodingLength.Statement (.nop) := rfl
theorem EncodingLength.prepare (list12 : BitVec 12) (imm5 : BitVec 5) :
    EncodingLength.Statement (.prepare list12 imm5) := rfl
theorem EncodingLength.prepareSp (list12 : BitVec 12) (imm5 : BitVec 5) :
    EncodingLength.Statement (.prepareSp list12 imm5) := rfl
theorem EncodingLength.prepareImm16 (list12 : BitVec 12) (imm5 : BitVec 5) (imm16 : BitVec 16) :
    EncodingLength.Statement (.prepareImm16 list12 imm5 imm16) := rfl
theorem EncodingLength.prepareImm16Hi (list12 : BitVec 12) (imm5 : BitVec 5) (imm16 : BitVec 16) :
    EncodingLength.Statement (.prepareImm16Hi list12 imm5 imm16) := rfl
theorem EncodingLength.prepareImm32 (list12 : BitVec 12) (imm5 : BitVec 5) (imm32 : BitVec 32) :
    EncodingLength.Statement (.prepareImm32 list12 imm5 imm32) := rfl
theorem EncodingLength.reti :
    EncodingLength.Statement (.reti) := rfl
theorem EncodingLength.stsr (regID : BitVec 5) (reg2 : Reg) :
    EncodingLength.Statement (.stsr regID reg2) := rfl
theorem EncodingLength.switch (reg1 : Reg) :
    EncodingLength.Statement (.switch reg1) := rfl
theorem EncodingLength.trap (vector : BitVec 5) :
    EncodingLength.Statement (.trap vector) := rfl
theorem EncodingLength.dbret :
    EncodingLength.Statement (.dbret) := rfl
theorem EncodingLength.dbtrap :
    EncodingLength.Statement (.dbtrap) := rfl
theorem EncodingLength.illegalHigh (b31to27 : BitVec 5) (b25to23 : BitVec 3) (b22to17 : BitVec 6) (b15to11 b4to0 : BitVec 5) :
    EncodingLength.Statement (.illegalHigh b31to27 b25to23 b22to17 b15to11 b4to0) := rfl
theorem EncodingLength.illegalSeven (b31to27 : BitVec 5) (b22to17 : BitVec 6) (b15to11 b4to0 : BitVec 5) :
    EncodingLength.Statement (.illegalSeven b31to27 b22to17 b15to11 b4to0) := rfl

end Sys2Proof.Laws
end

