-- ==== Sys2Proof/Tests/Slice0.lean ====
section
/-! SUPPORT. Tests on fixed values: well-formedness, decoding by words written from the encodings of
spec/opcode_table.json, one or two vectors of spec/95_test_vectors.md for each instruction (named in its comment), the
events, and for each obligation with hypotheses a witness that meets them. -/

namespace Sys2Proof.Tests

open Sys2Proof.Machine

/-- A register file with these values, all else 0. -/
def holding (l : List (Reg × Word)) : Vector Word 32 :=
  l.foldl (fun v p => writeReg v p.1 p.2) (Vector.replicate 32 0#32)

/-- A product with every NMI input, masked low address bits and plain memory throughout. -/
def plainProduct : Product :=
  { misalign := false, nmi0 := true, nmi1 := true, nmi2 := true, areas := [], mirrored := false }

/-- The same with MISALIGN_ENABLE. -/
def misaligning : Product := { plainProduct with misalign := true }

/-- The state from which the vectors start: as after reset with pc = 1000h. -/
def machine : State := { State.reset with pc := 0x1000#32, product := plainProduct }

/-- The outcome is a next state of which `p` holds. -/
def nextIs (o : Result) (p : State → Bool) : Bool :=
  match o with
  | .next t => p t
  | _ => false

/-- The instruction's next state has `p`. -/
def after (i : Instr) (s : State) (p : State → Bool) : Bool := nextIs (exec i s) p

/-- Why an outcome is a refusal, if it is one. -/
def refusal (o : Result) : Option Refusal :=
  match o with
  | .refused r => some r
  | _ => none

/-- A memory that holds these instructions from cell `c` on. -/
def program (is : List Instr) (c : Nat) : Memory := placeBytes (is.flatMap encodeBytes) c []

/-! ### Well-formedness: for each check a term it refuses -/

theorem test_wf_refuses_r0_destination :
    ([.ldBu 0#16 1#5 0#5, .ldHu 0#16 1#5 0#5, .sldBu 0#4 0#5, .sldHu 0#5 0#5, .mulhReg 1#5 0#5, .mulhImm5 1#5 0#5,
      .mulhi 1#16 1#5 0#5, .movImm5 1#5 0#5, .movea 1#16 1#5 0#5, .movhi 1#16 1#5 0#5, .sataddReg 1#5 0#5,
      .sataddImm5 1#5 0#5, .satsub 1#5 0#5, .satsubi 1#16 1#5 0#5, .satsubr 1#5 0#5, .jarl 2#22 0#5,
      .divhReg2 1#5 0#5] : List Instr).all (fun i => !i.wf) = true := by decide

theorem test_wf_refuses_r0_source :
    ([.divhReg2 0#5 1#5, .switch 0#5, .disposeJump 1#5 1#12 0#5, .movReg 0#5 0#5] : List Instr).all
      (fun i => !i.wf) = true := by decide

theorem test_wf_refuses_odd_displacement :
    ([.ldH 1#16 1#5 1#5, .ldHu 1#16 1#5 1#5, .ldW 1#16 1#5 1#5, .stH 1#5 1#16 1#5, .stW 1#5 1#16 1#5, .sldH 1#8 1#5,
      .sldHu 1#5 1#5, .sstH 1#5 1#8, .bcond .z 1#9, .jarl 1#22 1#5, .jr 1#22] : List Instr).all
      (fun i => !i.wf) = true := by decide

theorem test_wf_refuses_unaligned_word_displacement :
    ([.sldW 1#8 1#5, .sldW 2#8 1#5, .sstW 1#5 1#8, .sstW 1#5 2#8] : List Instr).all (fun i => !i.wf) = true := by decide

/-! ### Decoding: a word for each instruction, its fields as the table's row cuts them -/

theorem test_decode_load_store :
    decode [0b01111_111000_00101#16, 0b1001111101110110#16] = .ok (.ldB 0x9F76#16 5#5 15#5) ∧
    decode [0b11100_11110_1_01111#16, 0b000001110110110_1#16] = .ok (.ldBu 0x76D#16 15#5 28#5) ∧
    decode [0b11101_111001_00010#16, 0b011110000001010_0#16] = .ok (.ldH 0x7814#16 2#5 29#5) ∧
    decode [0b00101_111111_11101#16, 0b010001111000110_1#16] = .ok (.ldHu 0x478C#16 29#5 5#5) ∧
    decode [0b11000_111001_11110#16, 0b011100011110000_1#16] = .ok (.ldW 0x71E0#16 30#5 24#5) ∧
    decode [0b11111_0110_1111111#16] = .ok (.sldB 127#7 31#5) ∧
    decode [0b00110_0000110_1100#16] = .ok (.sldBu 12#4 6#5) ∧
    decode [0b01011_1000_1110110#16] = .ok (.sldH 236#8 11#5) ∧
    decode [0b10011_0000111_0010#16] = .ok (.sldHu 4#5 19#5) ∧
    decode [0b01010_1010_101011_0#16] = .ok (.sldW 172#8 10#5) ∧
    decode [0b10111_0111_1110010#16] = .ok (.sstB 23#5 114#7) ∧
    decode [0b01110_1001_1101100#16] = .ok (.sstH 14#5 216#8) ∧
    decode [0b11101_1010_111110_1#16] = .ok (.sstW 29#5 248#8) ∧
    decode [0b01011_111010_10100#16, 0b0001101110101001#16] = .ok (.stB 11#5 0x1BA9#16 20#5) ∧
    decode [0b10010_111011_11110#16, 0b000101110101011_0#16] = .ok (.stH 18#5 0x1756#16 30#5) ∧
    decode [0b10001_111011_01110#16, 0b100010111000111_1#16] = .ok (.stW 17#5 0x8B8E#16 14#5) := by decide

theorem test_decode_multiply :
    decode [0b10000_111111_11100#16, 0b01001_01000100000#16] = .ok (.mulReg 28#5 16#5 9#5) ∧
    decode [0b01000_111111_00111#16, 0b01100_01001_1010_00#16] = .ok (.mulImm9 327#9 8#5 12#5) ∧
    decode [0b11010_111111_11100#16, 0b00001_01000100010#16] = .ok (.muluReg 28#5 26#5 1#5) ∧
    decode [0b01011_111111_10001#16, 0b10111_01001_0011_10#16] = .ok (.muluImm9 113#9 11#5 23#5) ∧
    decode [0b00100_000111_10100#16] = .ok (.mulhReg 20#5 4#5) ∧
    decode [0b11111_010111_11011#16] = .ok (.mulhImm5 27#5 31#5) ∧
    decode [0b10111_110111_11011#16, 0b0110011101011110#16] = .ok (.mulhi 0x675E#16 27#5 23#5) := by decide

theorem test_decode_arithmetic :
    decode [0b01111_001110_10011#16] = .ok (.addReg 19#5 15#5) ∧
    decode [0b01011_010010_11111#16] = .ok (.addImm5 31#5 11#5) ∧
    decode [0b11011_110000_01001#16, 0b0101110100001001#16] = .ok (.addi 0x5D09#16 9#5 27#5) ∧
    decode [0b11100_111111_10110#16, 0b01001_011001_1100_0#16] = .ok (.cmovReg .ns 22#5 28#5 9#5) ∧
    decode [0b01011_111111_11011#16, 0b01000_011000_0110_0#16] = .ok (.cmovImm5 .lt 27#5 11#5 8#5) ∧
    decode [0b01011_001111_01110#16] = .ok (.cmpReg 14#5 11#5) ∧
    decode [0b11011_010011_10010#16] = .ok (.cmpImm5 18#5 27#5) ∧
    decode [0b01001_111111_10000#16, 0b00101_01011000000#16] = .ok (.div 16#5 9#5 5#5) ∧
    decode [0b10111_000010_11000#16] = .ok (.divhReg2 24#5 23#5) ∧
    decode [0b00111_111111_10100#16, 0b10011_01010000000#16] = .ok (.divhReg3 20#5 7#5 19#5) ∧
    decode [0b11011_111111_00101#16, 0b01110_01010000010#16] = .ok (.divhu 5#5 27#5 14#5) ∧
    decode [0b11010_111111_10110#16, 0b01111_01011000010#16] = .ok (.divu 22#5 26#5 15#5) ∧
    decode [0b10001_000000_11110#16] = .ok (.movReg 30#5 17#5) ∧
    decode [0b00111_010000_00011#16] = .ok (.movImm5 3#5 7#5) ∧
    decode [0b00000110001_01101#16, 0b0001110101110101#16, 0b1011000001011000#16] = .ok (.movImm32 0xB0581D75#32 13#5) ∧
    decode [0b00011_110001_00001#16, 0b1101000000100000#16] = .ok (.movea 0xD020#16 1#5 3#5) ∧
    decode [0b11100_110010_10001#16, 0b1111010100001011#16] = .ok (.movhi 0xF50B#16 17#5 28#5) ∧
    decode [0b10001_1111110_1101#16, 0b0000001000000000#16] = .ok (.sasf .sa 17#5) ∧
    decode [0b10011_1111110_1011#16, 0b0000000000000000#16] = .ok (.setf .h 19#5) ∧
    decode [0b11110_001101_01101#16] = .ok (.sub 13#5 30#5) ∧
    decode [0b01101_001100_11101#16] = .ok (.subr 29#5 13#5) := by decide

theorem test_decode_saturated :
    decode [0b00011_000110_10011#16] = .ok (.sataddReg 19#5 3#5) ∧
    decode [0b01111_010001_10100#16] = .ok (.sataddImm5 20#5 15#5) ∧
    decode [0b01000_000101_00111#16] = .ok (.satsub 7#5 8#5) ∧
    decode [0b10100_110011_10011#16, 0b1010010100010110#16] = .ok (.satsubi 0xA516#16 19#5 20#5) ∧
    decode [0b10001_000100_10011#16] = .ok (.satsubr 19#5 17#5) := by decide

theorem test_decode_logical :
    decode [0b10111_001010_11001#16] = .ok (.andReg 25#5 23#5) ∧
    decode [0b00010_110110_00111#16, 0b1110001101010000#16] = .ok (.andi 0xE350#16 7#5 2#5) ∧
    decode [0b01011_11111100000#16, 0b10110_01101000010#16] = .ok (.bsh 11#5 22#5) ∧
    decode [0b00110_11111100000#16, 0b11011_01101000000#16] = .ok (.bsw 6#5 27#5) ∧
    decode [0b01100_11111100000#16, 0b11000_01101000100#16] = .ok (.hsw 12#5 24#5) ∧
    decode [0b01111_000001_11001#16] = .ok (.notReg 25#5 15#5) ∧
    decode [0b11001_001000_10011#16] = .ok (.orReg 19#5 25#5) ∧
    decode [0b10101_110100_10001#16, 0b0000011010001010#16] = .ok (.ori 0x68A#16 17#5 21#5) ∧
    decode [0b01101_111111_00001#16, 0b0000000010100000#16] = .ok (.sarReg 1#5 13#5) ∧
    decode [0b10110_010101_01101#16] = .ok (.sarImm5 13#5 22#5) ∧
    decode [0b11101_111111_10100#16, 0b0000000011000000#16] = .ok (.shlReg 20#5 29#5) ∧
    decode [0b10010_010110_00011#16] = .ok (.shlImm5 3#5 18#5) ∧
    decode [0b11011_111111_10001#16, 0b0000000010000000#16] = .ok (.shrReg 17#5 27#5) ∧
    decode [0b00100_010100_01111#16] = .ok (.shrImm5 15#5 4#5) ∧
    decode [0b00000000101_00100#16] = .ok (.sxb 4#5) ∧
    decode [0b00000000111_00010#16] = .ok (.sxh 2#5) ∧
    decode [0b00010_001011_10010#16] = .ok (.tst 18#5 2#5) ∧
    decode [0b11100_001001_11110#16] = .ok (.xorReg 30#5 28#5) ∧
    decode [0b10011_110101_00001#16, 0b0000110110111100#16] = .ok (.xori 0xDBC#16 1#5 19#5) ∧
    decode [0b00000000100_00010#16] = .ok (.zxb 2#5) ∧
    decode [0b00000000110_01010#16] = .ok (.zxh 10#5) := by decide

theorem test_decode_branch :
    decode [0b11010_1011_100_0011#16] = .ok (.bcond .nh 424#9) ∧
    decode [0b01100_11110_110000#16, 0b100101111011011_0#16] = .ok (.jarl 0x3097B6#22 12#5) ∧
    decode [0b00000000011_10000#16] = .ok (.jmp 16#5) ∧
    decode [0b0000011110_000011#16, 0b011110000101111_0#16] = .ok (.jr 0x3785E#22) := by decide

theorem test_decode_bit_manipulation :
    decode [0b00_101_111110_10100#16, 0b0010011110011000#16] = .ok (.set1Disp 5#3 0x2798#16 20#5) ∧
    decode [0b10001_111111_01011#16, 0b0000000011100000#16] = .ok (.set1Reg 17#5 11#5) ∧
    decode [0b01_101_111110_10000#16, 0b0000100000110111#16] = .ok (.not1Disp 5#3 0x837#16 16#5) ∧
    decode [0b01101_111111_01011#16, 0b0000000011100010#16] = .ok (.not1Reg 13#5 11#5) ∧
    decode [0b10_110_111110_00010#16, 0b1111111001011100#16] = .ok (.clr1Disp 6#3 0xFE5C#16 2#5) ∧
    decode [0b10010_111111_11101#16, 0b0000000011100100#16] = .ok (.clr1Reg 18#5 29#5) ∧
    decode [0b11_100_111110_11101#16, 0b1011101101111011#16] = .ok (.tst1Disp 4#3 0xBB7B#16 29#5) ∧
    decode [0b11111_111111_11110#16, 0b0000000011100110#16] = .ok (.tst1Reg 31#5 30#5) := by decide

theorem test_decode_special :
    decode [0b0000001000_110101#16] = .ok (.callt 53#6) ∧
    decode [0b0000011111100000#16, 0b0000000101000100#16] = .ok .ctret ∧
    decode [0b0000011111100000#16, 0b0000000101100000#16] = .ok .di ∧
    decode [0b0000011001_00100_0#16, 0b01001110010_00000#16] = .ok (.dispose 4#5 0x227#12) ∧
    decode [0b0000011001_00111_1#16, 0b00110000001_00100#16] = .ok (.disposeJump 7#5 0xCC0#12 4#5) ∧
    decode [0b1000011111100000#16, 0b0000000101100000#16] = .ok .ei ∧
    decode [0b0000011111100000#16, 0b0000000100100000#16] = .ok .halt ∧
    decode [0b10010_111111_10100#16, 0b0000000000100000#16] = .ok (.ldsr 20#5 18#5) ∧
    decode [0b0000000000000000#16] = .ok .nop ∧
    decode [0b0000011110_00101_1#16, 0b00111110101_00001#16] = .ok (.prepare 0xDC7#12 5#5) ∧
    decode [0b0000011110_11011_1#16, 0b10110011010_00011#16] = .ok (.prepareSp 0x6DC#12 27#5) ∧
    decode [0b0000011110_00111_0#16, 0b01101011101_01011#16, 0b1100010011111011#16] = .ok (.prepareImm16 0x96D#12 7#5
      0xC4FB#16) ∧
    decode [0b0000011110_11111_1#16, 0b10111010010_10011#16, 0b0000110000010101#16] = .ok (.prepareImm16Hi 0x6D5#12
      31#5 0xC15#16) ∧
    decode [0b0000011110_01010_1#16, 0b11000011100_11011#16, 0b0111010100000000#16, 0b1011110100101100#16] = .ok
      (.prepareImm32 0x53C#12 10#5 0xBD2C7500#32) ∧
    decode [0b0000011111100000#16, 0b0000000101000000#16] = .ok .reti ∧
    decode [0b10001_111111_01101#16, 0b0000000001000000#16] = .ok (.stsr 13#5 17#5) ∧
    decode [0b00000000010_00010#16] = .ok (.switch 2#5) ∧
    decode [0b00000111111_00110#16, 0b0000000100000000#16] = .ok (.trap 6#5) := by decide

theorem test_decode_debug :
    decode [0b0000011111100000#16, 0b0000000101000110#16] = .ok .dbret ∧
    decode [0b1111100001000000#16] = .ok .dbtrap ∧
    decode [0b10010_111111_11111#16, 0b10001_1_111111101_0#16] = .ok (.illegalHigh 17#5 7#3 61#6 18#5 31#5) ∧
    decode [0b11101_111111_10111#16, 0b11111_0111_111111_0#16] = .ok (.illegalSeven 31#5 63#6 29#5 23#5) := by decide

/-- D6, D7, D9, D10, D11, D11b: encodings that are no instruction. -/
theorem test_decode_undefined :
    decode [0x07E0#16, 0x0180#16] = .error .blankCell ∧ decode [0x07E0#16, 0x0360#16] = .error .blankCell ∧
    decode [0x0040#16] = .error .divhReg1Zero ∧ decode [0x02E5#16] = .error .mulhImm5Reg2Zero ∧
    decode [0x0FF0#16, 0x0000#16] = .error .condBit4 ∧ decode [0x0FE0#16, 0x0010#16] = .error .fixedBits := by decide

/-- The register-list bits of Table 5-4 (R142): r20, r24, r28, r30, r31 one at a time. -/
theorem test_decode_register_lists :
    decode [0x0780#16, 0b00001000000_00001#16] = .ok (.prepare 0x001#12 0#5) ∧
    decode [0x0780#16, 0b10000000000_00001#16] = .ok (.prepare 0x010#12 0#5) ∧
    decode [0x0780#16, 0b00000000100_00001#16] = .ok (.prepare 0x100#12 0#5) ∧
    decode [0x0781#16, 0b00000000000_00001#16] = .ok (.prepare 0x400#12 0#5) ∧
    decode [0x0780#16, 0b00000000001_00001#16] = .ok (.prepare 0x800#12 0#5) := by decide

/-! ### One step of each instruction, from spec/95_test_vectors.md -/

/-- L1, L11. -/
theorem test_ld_b :
    after (.ldB 0x10#16 1#5 2#5) { machine with
        regs := holding [(1#5, 0x3FF0000#32)]
        mem := placeBytes [0x80#8, 0xFF#8, 0x01#8, 0x80#8] 0x3FF0010 [] }
      (fun t => t.gpr 2#5 = 0xFFFFFF80#32 ∧ t.psw = 0x20#32 ∧ t.pc = 0x1004#32) ∧
    after (.ldB 0x1#16 1#5 2#5) { machine with regs := holding [(1#5, 0xFFFFFFFF#32)], mem := placeBytes [0x7F#8] 0x0 [] }
      (fun t => t.gpr 2#5 = 0x7F#32 ∧ t.psw = 0x20#32 ∧ t.pc = 0x1004#32) := by decide

/-- L2. -/
theorem test_ld_bu :
    after (.ldBu 0x11#16 1#5 2#5) { machine with
        regs := holding [(1#5, 0x3FF0000#32)]
        mem := placeBytes [0x80#8, 0xFF#8, 0x01#8, 0x80#8] 0x3FF0010 [] }
      (fun t => t.gpr 2#5 = 0xFF#32 ∧ t.psw = 0x20#32 ∧ t.pc = 0x1004#32) := by decide

/-- L3, L9. -/
theorem test_ld_h :
    after (.ldH 0x12#16 1#5 2#5) { machine with
        regs := holding [(1#5, 0x3FF0000#32)]
        mem := placeBytes [0x80#8, 0xFF#8, 0x01#8, 0x80#8] 0x3FF0010 [] }
      (fun t => t.gpr 2#5 = 0xFFFF8001#32 ∧ t.psw = 0x20#32 ∧ t.pc = 0x1004#32) ∧
    after (.ldH 0x10#16 1#5 2#5) { machine with
        regs := holding [(1#5, 0x3FF0001#32)]
        mem := placeBytes [0x80#8, 0xFF#8, 0x01#8, 0x80#8] 0x3FF0010 []
        product := misaligning }
      (fun t => t.gpr 2#5 = 0x1FF#32 ∧ t.psw = 0x20#32 ∧ t.pc = 0x1004#32) := by decide

/-- L4, D12. -/
theorem test_ld_hu :
    after (.ldHu 0x12#16 1#5 2#5) { machine with
        regs := holding [(1#5, 0x3FF0000#32)]
        mem := placeBytes [0x80#8, 0xFF#8, 0x01#8, 0x80#8] 0x3FF0010 [] }
      (fun t => t.gpr 2#5 = 0x8001#32 ∧ t.psw = 0x20#32 ∧ t.pc = 0x1004#32) ∧
    after (.ldHu 0xFFFE#16 31#5 31#5) { machine with
        regs := holding [(31#5, 0x3FF0002#32)]
        mem := placeBytes [0xEF#8, 0xBE#8] 0x3FF0000 [] }
      (fun t => t.gpr 31#5 = 0xBEEF#32 ∧ t.psw = 0x20#32 ∧ t.pc = 0x1004#32) := by decide

/-- L6, L7. -/
theorem test_ld_w :
    after (.ldW 0x10#16 1#5 2#5) { machine with
        regs := holding [(1#5, 0x3FF0003#32)]
        mem := placeBytes [0x80#8, 0xFF#8, 0x01#8, 0x80#8] 0x3FF0010 [] }
      (fun t => t.gpr 2#5 = 0x8001FF80#32 ∧ t.psw = 0x20#32 ∧ t.pc = 0x1004#32) ∧
    after (.ldW 0x10#16 1#5 2#5) { machine with
        regs := holding [(1#5, 0x3FF0001#32)]
        mem := placeBytes [0x80#8, 0xFF#8, 0x01#8, 0x80#8, 0xDD#8, 0xCC#8, 0xBB#8, 0xAA#8] 0x3FF0010 []
        product := misaligning }
      (fun t => t.gpr 2#5 = 0xDD8001FF#32 ∧ t.psw = 0x20#32 ∧ t.pc = 0x1004#32) := by decide

/-- L12. -/
theorem test_sld_b :
    after (.sldB 127#7 2#5) { machine with regs := holding [(30#5, 0x3FF0000#32)], mem := placeBytes [0x80#8] 0x3FF007F [] }
      (fun t => t.gpr 2#5 = 0xFFFFFF80#32 ∧ t.psw = 0x20#32 ∧ t.pc = 0x1002#32) := by decide

/-- L13. -/
theorem test_sld_bu :
    after (.sldBu 15#4 2#5) { machine with regs := holding [(30#5, 0x3FF0000#32)], mem := placeBytes [0xFE#8] 0x3FF000F [] }
      (fun t => t.gpr 2#5 = 0xFE#32 ∧ t.psw = 0x20#32 ∧ t.pc = 0x1002#32) := by decide

/-- L14. -/
theorem test_sld_h :
    after (.sldH 254#8 2#5) { machine with
        regs := holding [(30#5, 0x3FF0000#32)]
        mem := placeBytes [0x00#8, 0x80#8] 0x3FF00FE [] }
      (fun t => t.gpr 2#5 = 0xFFFF8000#32 ∧ t.psw = 0x20#32 ∧ t.pc = 0x1002#32) := by decide

/-- L15. -/
theorem test_sld_hu :
    after (.sldHu 30#5 2#5) { machine with
        regs := holding [(30#5, 0x3FF0000#32)]
        mem := placeBytes [0xFF#8, 0xFF#8] 0x3FF001E [] }
      (fun t => t.gpr 2#5 = 0xFFFF#32 ∧ t.psw = 0x20#32 ∧ t.pc = 0x1002#32) := by decide

/-- L16. -/
theorem test_sld_w :
    after (.sldW 252#8 2#5) { machine with
        regs := holding [(30#5, 0x3FF0000#32)]
        mem := placeBytes [0x34#8, 0x12#8, 0x00#8, 0x80#8] 0x3FF00FC [] }
      (fun t => t.gpr 2#5 = 0x80001234#32 ∧ t.psw = 0x20#32 ∧ t.pc = 0x1002#32) := by decide

/-- L18. -/
theorem test_sst_b :
    after (.sstB 2#5 127#7) { machine with regs := holding [(2#5, 0x12345678#32), (30#5, 0x3FF0000#32)] }
      (fun t => t.byteAt 0x3FF007F#32 = 0x78#8 ∧ t.psw = 0x20#32 ∧ t.pc = 0x1002#32) := by decide

/-- L19. -/
theorem test_sst_h :
    after (.sstH 2#5 254#8) { machine with regs := holding [(2#5, 0x12345678#32), (30#5, 0x3FF0000#32)] }
      (fun t => t.loadHalf 0x3FF00FE#32 = 0x5678#16 ∧ t.psw = 0x20#32 ∧ t.pc = 0x1002#32) := by decide

/-- L20. -/
theorem test_sst_w :
    after (.sstW 2#5 252#8) { machine with regs := holding [(2#5, 0x12345678#32), (30#5, 0x3FF0000#32)] }
      (fun t => t.loadWord 0x3FF00FC#32 = 0x12345678#32 ∧ t.psw = 0x20#32 ∧ t.pc = 0x1002#32) := by decide

/-- L21. -/
theorem test_st_b :
    after (.stB 2#5 0xFFFF#16 1#5) { machine with regs := holding [(1#5, 0x3FF0100#32), (2#5, 0xFFFFFF01#32)] }
      (fun t => t.byteAt 0x3FF00FF#32 = 0x1#8 ∧ t.psw = 0x20#32 ∧ t.pc = 0x1004#32) := by decide

/-- L22. -/
theorem test_st_h :
    after (.stH 2#5 0x2#16 1#5) { machine with regs := holding [(1#5, 0x3FF0000#32), (2#5, 0xABCD1234#32)] }
      (fun t => t.loadHalf 0x3FF0002#32 = 0x1234#16 ∧ t.psw = 0x20#32 ∧ t.pc = 0x1004#32) := by decide

/-- L24, L25. -/
theorem test_st_w :
    after (.stW 2#5 0x4#16 1#5) { machine with regs := holding [(1#5, 0x3FF0003#32), (2#5, 0xABCD1234#32)] }
      (fun t => t.loadWord 0x3FF0004#32 = 0xABCD1234#32 ∧ t.psw = 0x20#32 ∧ t.pc = 0x1004#32) ∧
    after (.stW 2#5 0x4#16 1#5) { machine with regs := holding [(1#5, 0x3FF0003#32), (2#5, 0xABCD1234#32)], product := misaligning }
      (fun t => t.loadWord 0x3FF0007#32 = 0xABCD1234#32 ∧ t.psw = 0x20#32 ∧ t.pc = 0x1004#32) := by decide

/-- M1, M5. -/
theorem test_mul_reg :
    after (.mulReg 5#5 6#5 7#5) { machine with regs := holding [(5#5, 0x2#32), (6#5, 0xFFFFFFFF#32)], psw := 0x3F#32 }
      (fun t => t.gpr 6#5 = 0xFFFFFFFE#32 ∧ t.gpr 7#5 = 0xFFFFFFFF#32 ∧ t.psw = 0x3F#32 ∧ t.pc = 0x1004#32) ∧
    after (.mulReg 5#5 6#5 6#5) { machine with regs := holding [(5#5, 0x10000#32), (6#5, 0x12345#32)] }
      (fun t => t.gpr 6#5 = 0x1#32 ∧ t.psw = 0x20#32 ∧ t.pc = 0x1004#32) := by decide

/-- M9, M10. -/
theorem test_mul_imm9 :
    after (.mulImm9 0x1FF#9 6#5 7#5) { machine with regs := holding [(6#5, 0x5#32)] }
      (fun t => t.gpr 6#5 = 0xFFFFFFFB#32 ∧ t.gpr 7#5 = 0xFFFFFFFF#32 ∧ t.psw = 0x20#32 ∧ t.pc = 0x1004#32) ∧
    after (.mulImm9 0xFF#9 6#5 7#5) { machine with regs := holding [(6#5, 0x1000000#32)] }
      (fun t => t.gpr 6#5 = 0xFF000000#32 ∧ t.gpr 7#5 = 0x0#32 ∧ t.psw = 0x20#32 ∧ t.pc = 0x1004#32) := by decide

/-- M2, M4. -/
theorem test_mulu_reg :
    after (.muluReg 5#5 6#5 7#5) { machine with regs := holding [(5#5, 0x2#32), (6#5, 0xFFFFFFFF#32)] }
      (fun t => t.gpr 6#5 = 0xFFFFFFFE#32 ∧ t.gpr 7#5 = 0x1#32 ∧ t.psw = 0x20#32 ∧ t.pc = 0x1004#32) ∧
    after (.muluReg 5#5 6#5 7#5) { machine with regs := holding [(5#5, 0xFFFFFFFF#32), (6#5, 0xFFFFFFFF#32)] }
      (fun t => t.gpr 6#5 = 0x1#32 ∧ t.gpr 7#5 = 0xFFFFFFFE#32 ∧ t.psw = 0x20#32 ∧ t.pc = 0x1004#32) := by decide

/-- M11. -/
theorem test_mulu_imm9 :
    after (.muluImm9 0x1FF#9 6#5 7#5) { machine with regs := holding [(6#5, 0x80000000#32)] }
      (fun t => t.gpr 7#5 = 0xFF#32 ∧ t.psw = 0x20#32 ∧ t.pc = 0x1004#32) := by decide

/-- M12, M13. -/
theorem test_mulh_reg :
    after (.mulhReg 5#5 6#5) { machine with regs := holding [(5#5, 0xABCD0002#32), (6#5, 0x1FFFF#32)] }
      (fun t => t.gpr 6#5 = 0xFFFFFFFE#32 ∧ t.psw = 0x20#32 ∧ t.pc = 0x1002#32) ∧
    after (.mulhReg 5#5 6#5) { machine with regs := holding [(5#5, 0x8000#32), (6#5, 0x8000#32)] }
      (fun t => t.gpr 6#5 = 0x40000000#32 ∧ t.psw = 0x20#32 ∧ t.pc = 0x1002#32) := by decide

/-- M14. -/
theorem test_mulh_imm5 :
    after (.mulhImm5 16#5 6#5) { machine with regs := holding [(6#5, 0x7FFF#32)] }
      (fun t => t.gpr 6#5 = 0xFFF80010#32 ∧ t.psw = 0x20#32 ∧ t.pc = 0x1002#32) := by decide

/-- M15, M16. -/
theorem test_mulhi :
    after (.mulhi 0x8000#16 5#5 6#5) { machine with regs := holding [(5#5, 0x12347FFF#32)] }
      (fun t => t.gpr 6#5 = 0xC0008000#32 ∧ t.psw = 0x20#32 ∧ t.pc = 0x1004#32) ∧
    after (.mulhi 0x64#16 5#5 6#5) { machine with regs := holding [(5#5, 0xFFFFFFFF#32)], psw := 0x3F#32 }
      (fun t => t.gpr 6#5 = 0xFFFFFF9C#32 ∧ t.psw = 0x3F#32 ∧ t.pc = 0x1004#32) := by decide

/-- A1, A3. -/
theorem test_add_reg :
    after (.addReg 5#5 6#5) { machine with regs := holding [(5#5, 0x1#32), (6#5, 0x7FFFFFFF#32)] }
      (fun t => t.gpr 6#5 = 0x80000000#32 ∧ t.psw = 0x26#32 ∧ t.pc = 0x1002#32) ∧
    after (.addReg 5#5 6#5) { machine with regs := holding [(5#5, 0x80000000#32), (6#5, 0x80000000#32)] }
      (fun t => t.gpr 6#5 = 0x0#32 ∧ t.psw = 0x2D#32 ∧ t.pc = 0x1002#32) := by decide

/-- A5, A7. -/
theorem test_add_imm5 :
    after (.addImm5 16#5 6#5) { machine with regs := holding [(6#5, 0x10#32)] }
      (fun t => t.gpr 6#5 = 0x0#32 ∧ t.psw = 0x29#32 ∧ t.pc = 0x1002#32) ∧
    after (.addImm5 1#5 0#5) machine (fun t => t.psw = 0x20#32 ∧ t.pc = 0x1002#32) := by decide

/-- A8, A9. -/
theorem test_addi :
    after (.addi 0x8000#16 5#5 6#5) { machine with regs := holding [(5#5, 0x8000#32)] }
      (fun t => t.gpr 6#5 = 0x0#32 ∧ t.psw = 0x29#32 ∧ t.pc = 0x1004#32) ∧
    after (.addi 0x7FFF#16 5#5 6#5) { machine with regs := holding [(5#5, 0x7FFF8001#32)] }
      (fun t => t.gpr 6#5 = 0x80000000#32 ∧ t.psw = 0x26#32 ∧ t.pc = 0x1004#32) := by decide

/-- A33, A34. -/
theorem test_cmov_reg :
    after (.cmovReg .ge 5#5 6#5 7#5) { machine with regs := holding [(5#5, 0x11111111#32), (6#5, 0x22222222#32)] }
      (fun t => t.gpr 7#5 = 0x11111111#32 ∧ t.psw = 0x20#32 ∧ t.pc = 0x1004#32) ∧
    after (.cmovReg .lt 5#5 6#5 7#5) { machine with regs := holding [(5#5, 0x11111111#32), (6#5, 0x22222222#32)] }
      (fun t => t.gpr 7#5 = 0x22222222#32 ∧ t.psw = 0x20#32 ∧ t.pc = 0x1004#32) := by decide

/-- A35, A36. -/
theorem test_cmov_imm5 :
    after (.cmovImm5 .t 31#5 6#5 7#5) { machine with regs := holding [(6#5, 0x22222222#32)] }
      (fun t => t.gpr 7#5 = 0xFFFFFFFF#32 ∧ t.psw = 0x20#32 ∧ t.pc = 0x1004#32) ∧
    after (.cmovImm5 .sa 7#5 6#5 6#5) { machine with regs := holding [(6#5, 0x22222222#32)] }
      (fun t => t.psw = 0x20#32 ∧ t.pc = 0x1004#32) := by decide

/-- A11, A13. -/
theorem test_cmp_reg :
    after (.cmpReg 5#5 6#5) { machine with regs := holding [(5#5, 0x1#32), (6#5, 0x0#32)] }
      (fun t => t.psw = 0x2A#32 ∧ t.pc = 0x1002#32) ∧
    after (.cmpReg 5#5 6#5) { machine with regs := holding [(5#5, 0x80000000#32), (6#5, 0x7FFFFFFF#32)] }
      (fun t => t.psw = 0x2E#32 ∧ t.pc = 0x1002#32) := by decide

/-- A15, A16. -/
theorem test_cmp_imm5 :
    after (.cmpImm5 31#5 6#5) { machine with regs := holding [(6#5, 0xFFFFFFFF#32)] }
      (fun t => t.psw = 0x21#32 ∧ t.pc = 0x1002#32) ∧
    after (.cmpImm5 5#5 6#5) { machine with regs := holding [(6#5, 0x3#32)] }
      (fun t => t.psw = 0x2A#32 ∧ t.pc = 0x1002#32) := by decide

/-- A38, A40. -/
theorem test_div :
    after (.div 5#5 6#5 7#5) { machine with regs := holding [(5#5, 0x2#32), (6#5, 0xFFFFFFF9#32)] }
      (fun t => t.gpr 6#5 = 0xFFFFFFFD#32 ∧ t.gpr 7#5 = 0xFFFFFFFF#32 ∧ t.psw = 0x22#32 ∧ t.pc = 0x1004#32) ∧
    after (.div 5#5 6#5 7#5) { machine with regs := holding [(5#5, 0xFFFFFFFF#32), (6#5, 0x80000000#32)] }
      (fun t => t.gpr 7#5 = 0x0#32 ∧ t.psw = 0x26#32 ∧ t.pc = 0x1004#32) := by decide

/-- A43, A44. -/
theorem test_divh_reg2 :
    after (.divhReg2 5#5 6#5) { machine with regs := holding [(5#5, 0xABCD0003#32), (6#5, 0x186A1#32)] }
      (fun t => t.gpr 6#5 = 0x8235#32 ∧ t.psw = 0x20#32 ∧ t.pc = 0x1002#32) ∧
    after (.divhReg2 5#5 6#5) { machine with regs := holding [(5#5, 0xFFFF#32), (6#5, 0x80000000#32)] }
      (fun t => t.psw = 0x26#32 ∧ t.pc = 0x1002#32) := by decide

/-- A45. -/
theorem test_divh_reg3 :
    after (.divhReg3 5#5 6#5 7#5) { machine with regs := holding [(5#5, 0x8000#32), (6#5, 0x18001#32)] }
      (fun t => t.gpr 6#5 = 0xFFFFFFFD#32 ∧ t.gpr 7#5 = 0x1#32 ∧ t.psw = 0x22#32 ∧ t.pc = 0x1004#32) := by decide

/-- A46, A47. -/
theorem test_divhu :
    after (.divhu 5#5 6#5 7#5) { machine with regs := holding [(5#5, 0xFFFF8000#32), (6#5, 0x18001#32)] }
      (fun t => t.gpr 6#5 = 0x3#32 ∧ t.gpr 7#5 = 0x1#32 ∧ t.psw = 0x20#32 ∧ t.pc = 0x1004#32) ∧
    after (.divhu 5#5 6#5 7#5) { machine with regs := holding [(5#5, 0x10000#32), (6#5, 0x5#32)] }
      (fun t => t.gpr 5#5 = 0x10000#32 ∧ t.pc = 0x1004#32) := by decide

/-- A49, A50. -/
theorem test_divu :
    after (.divu 5#5 6#5 7#5) { machine with regs := holding [(5#5, 0x1#32), (6#5, 0xFFFFFFFF#32)] }
      (fun t => t.gpr 7#5 = 0x0#32 ∧ t.psw = 0x22#32 ∧ t.pc = 0x1004#32) ∧
    after (.divu 5#5 6#5 7#5) { machine with regs := holding [(5#5, 0xFFFFFFFF#32), (6#5, 0x80000000#32)] }
      (fun t => t.gpr 6#5 = 0x0#32 ∧ t.gpr 7#5 = 0x80000000#32 ∧ t.psw = 0x21#32 ∧ t.pc = 0x1004#32) := by decide

/-- A20. -/
theorem test_mov_reg :
    after (.movReg 5#5 6#5) { machine with regs := holding [(5#5, 0xDEADBEEF#32)], psw := 0x3F#32 }
      (fun t => t.gpr 6#5 = 0xDEADBEEF#32 ∧ t.psw = 0x3F#32 ∧ t.pc = 0x1002#32) := by decide

/-- A21, A22. -/
theorem test_mov_imm5 :
    after (.movImm5 31#5 6#5) { machine with psw := 0x3F#32 }
      (fun t => t.gpr 6#5 = 0xFFFFFFFF#32 ∧ t.psw = 0x3F#32 ∧ t.pc = 0x1002#32) ∧
    after (.movImm5 15#5 6#5) machine (fun t => t.gpr 6#5 = 0xF#32 ∧ t.psw = 0x20#32 ∧ t.pc = 0x1002#32) := by decide

/-- A23. -/
theorem test_mov_imm32 :
    after (.movImm32 0x12345678#32 6#5) machine
      (fun t => t.gpr 6#5 = 0x12345678#32 ∧ t.psw = 0x20#32 ∧ t.pc = 0x1006#32) := by decide

/-- A24, A25. -/
theorem test_movea :
    after (.movea 0x8000#16 5#5 6#5) { machine with regs := holding [(5#5, 0x10000#32)], psw := 0x3F#32 }
      (fun t => t.gpr 6#5 = 0x8000#32 ∧ t.psw = 0x3F#32 ∧ t.pc = 0x1004#32) ∧
    after (.movea 0x1234#16 0#5 6#5) machine (fun t => t.gpr 6#5 = 0x1234#32 ∧ t.psw = 0x20#32 ∧ t.pc = 0x1004#32) := by
  decide

/-- A26, A27. -/
theorem test_movhi :
    after (.movhi 0x8000#16 5#5 6#5) { machine with regs := holding [(5#5, 0x80001234#32)], psw := 0x3F#32 }
      (fun t => t.gpr 6#5 = 0x1234#32 ∧ t.psw = 0x3F#32 ∧ t.pc = 0x1004#32) ∧
    after (.movhi 0x3FF#16 0#5 6#5) machine
      (fun t => t.gpr 6#5 = 0x3FF0000#32 ∧ t.psw = 0x20#32 ∧ t.pc = 0x1004#32) := by decide

/-- A31, A32. -/
theorem test_sasf :
    after (.sasf .nz 6#5) { machine with regs := holding [(6#5, 0x80000001#32)] }
      (fun t => t.gpr 6#5 = 0x3#32 ∧ t.psw = 0x20#32 ∧ t.pc = 0x1004#32) ∧
    after (.sasf .l 6#5) { machine with regs := holding [(6#5, 0x1#32)] }
      (fun t => t.gpr 6#5 = 0x2#32 ∧ t.psw = 0x20#32 ∧ t.pc = 0x1004#32) := by decide

/-- A29, A30. -/
theorem test_setf :
    after (.setf .lt 6#5) { machine with psw := 0x24#32 }
      (fun t => t.gpr 6#5 = 0x1#32 ∧ t.psw = 0x24#32 ∧ t.pc = 0x1004#32) ∧
    after (.setf .sa 6#5) machine (fun t => t.gpr 6#5 = 0x0#32 ∧ t.psw = 0x20#32 ∧ t.pc = 0x1004#32) := by decide

/-- A17, A19. -/
theorem test_sub :
    after (.sub 5#5 6#5) { machine with regs := holding [(5#5, 0x3#32), (6#5, 0xA#32)] }
      (fun t => t.gpr 6#5 = 0x7#32 ∧ t.psw = 0x20#32 ∧ t.pc = 0x1002#32) ∧
    after (.sub 5#5 6#5) { machine with regs := holding [(5#5, 0xFFFFFFFF#32), (6#5, 0x7FFFFFFF#32)] }
      (fun t => t.gpr 6#5 = 0x80000000#32 ∧ t.psw = 0x2E#32 ∧ t.pc = 0x1002#32) := by decide

/-- A18. -/
theorem test_subr :
    after (.subr 5#5 6#5) { machine with regs := holding [(5#5, 0x3#32), (6#5, 0xA#32)] }
      (fun t => t.gpr 6#5 = 0xFFFFFFF9#32 ∧ t.psw = 0x2A#32 ∧ t.pc = 0x1002#32) := by decide

/-- T1, T3. -/
theorem test_satadd_reg :
    after (.sataddReg 5#5 6#5) { machine with regs := holding [(5#5, 0x1#32), (6#5, 0x7FFFFFFF#32)] }
      (fun t => t.psw = 0x34#32 ∧ t.pc = 0x1002#32) ∧
    after (.sataddReg 5#5 6#5) { machine with regs := holding [(5#5, 0x1#32), (6#5, 0x2#32)], psw := 0x30#32 }
      (fun t => t.gpr 6#5 = 0x3#32 ∧ t.psw = 0x30#32 ∧ t.pc = 0x1002#32) := by decide

/-- T5, T6. -/
theorem test_satadd_imm5 :
    after (.sataddImm5 15#5 6#5) { machine with regs := holding [(6#5, 0x7FFFFFF8#32)] }
      (fun t => t.gpr 6#5 = 0x7FFFFFFF#32 ∧ t.psw = 0x34#32 ∧ t.pc = 0x1002#32) ∧
    after (.sataddImm5 16#5 6#5) { machine with regs := holding [(6#5, 0x80000005#32)] }
      (fun t => t.gpr 6#5 = 0x80000000#32 ∧ t.psw = 0x3E#32 ∧ t.pc = 0x1002#32) := by decide

/-- T8, T9. -/
theorem test_satsub :
    after (.satsub 5#5 6#5) { machine with regs := holding [(5#5, 0x80000000#32), (6#5, 0x0#32)] }
      (fun t => t.gpr 6#5 = 0x7FFFFFFF#32 ∧ t.psw = 0x3C#32 ∧ t.pc = 0x1002#32) ∧
    after (.satsub 5#5 6#5) { machine with regs := holding [(5#5, 0x5#32), (6#5, 0x3#32)] }
      (fun t => t.gpr 6#5 = 0xFFFFFFFE#32 ∧ t.psw = 0x2A#32 ∧ t.pc = 0x1002#32) := by decide

/-- T10, T11. -/
theorem test_satsubi :
    after (.satsubi 0x8000#16 5#5 6#5) { machine with regs := holding [(5#5, 0x7FFFFFFF#32)] }
      (fun t => t.gpr 6#5 = 0x7FFFFFFF#32 ∧ t.psw = 0x3C#32 ∧ t.pc = 0x1004#32) ∧
    after (.satsubi 0x1#16 5#5 6#5) { machine with regs := holding [(5#5, 0x1#32)], psw := 0x30#32 }
      (fun t => t.gpr 6#5 = 0x0#32 ∧ t.psw = 0x31#32 ∧ t.pc = 0x1004#32) := by decide

/-- T12, T13. -/
theorem test_satsubr :
    after (.satsubr 5#5 6#5) { machine with regs := holding [(5#5, 0x80000000#32), (6#5, 0x1#32)] }
      (fun t => t.gpr 6#5 = 0x80000000#32 ∧ t.psw = 0x36#32 ∧ t.pc = 0x1002#32) ∧
    after (.satsubr 5#5 6#5) { machine with regs := holding [(5#5, 0xA#32), (6#5, 0x3#32)] }
      (fun t => t.gpr 6#5 = 0x7#32 ∧ t.psw = 0x20#32 ∧ t.pc = 0x1002#32) := by decide

/-- G1. -/
theorem test_and_reg :
    after (.andReg 5#5 6#5) { machine with regs := holding [(5#5, 0xF0F0F0F0#32), (6#5, 0xF0F0F0F#32)], psw := 0x3C#32 }
      (fun t => t.gpr 6#5 = 0x0#32 ∧ t.psw = 0x39#32 ∧ t.pc = 0x1002#32) := by decide

/-- G8, G9. -/
theorem test_andi :
    after (.andi 0xFFFF#16 5#5 6#5) { machine with regs := holding [(5#5, 0x89ABCDEF#32)] }
      (fun t => t.gpr 6#5 = 0xCDEF#32 ∧ t.psw = 0x20#32 ∧ t.pc = 0x1004#32) ∧
    after (.andi 0x0#16 5#5 0#5) { machine with regs := holding [(5#5, 0x89ABCDEF#32)], psw := 0x26#32 }
      (fun t => t.psw = 0x21#32 ∧ t.pc = 0x1004#32) := by decide

/-- G13, G14. -/
theorem test_bsh :
    after (.bsh 6#5 7#5) { machine with regs := holding [(6#5, 0x11220044#32)] }
      (fun t => t.gpr 7#5 = 0x22114400#32 ∧ t.psw = 0x28#32 ∧ t.pc = 0x1004#32) ∧
    after (.bsh 6#5 7#5) { machine with regs := holding [(6#5, 0x80000000#32)] }
      (fun t => t.gpr 7#5 = 0x800000#32 ∧ t.psw = 0x29#32 ∧ t.pc = 0x1004#32) := by decide

/-- G16, G17. -/
theorem test_bsw :
    after (.bsw 6#5 7#5) { machine with regs := holding [(6#5, 0x11003380#32)] }
      (fun t => t.gpr 7#5 = 0x80330011#32 ∧ t.psw = 0x2A#32 ∧ t.pc = 0x1004#32) ∧
    after (.bsw 6#5 7#5) { machine with regs := holding [(6#5, 0x0#32)] }
      (fun t => t.gpr 7#5 = 0x0#32 ∧ t.psw = 0x29#32 ∧ t.pc = 0x1004#32) := by decide

/-- G18, G19. -/
theorem test_hsw :
    after (.hsw 6#5 7#5) { machine with regs := holding [(6#5, 0x1234ABCD#32)] }
      (fun t => t.gpr 7#5 = 0xABCD1234#32 ∧ t.psw = 0x22#32 ∧ t.pc = 0x1004#32) ∧
    after (.hsw 6#5 7#5) { machine with regs := holding [(6#5, 0x8000#32)] }
      (fun t => t.gpr 7#5 = 0x80000000#32 ∧ t.psw = 0x2A#32 ∧ t.pc = 0x1004#32) := by decide

/-- G4, G5. -/
theorem test_not_reg :
    after (.notReg 5#5 6#5) { machine with regs := holding [(5#5, 0x0#32)] }
      (fun t => t.gpr 6#5 = 0xFFFFFFFF#32 ∧ t.psw = 0x22#32 ∧ t.pc = 0x1002#32) ∧
    after (.notReg 0#5 6#5) machine (fun t => t.gpr 6#5 = 0xFFFFFFFF#32 ∧ t.psw = 0x22#32 ∧ t.pc = 0x1002#32) := by
  decide

/-- G2. -/
theorem test_or_reg :
    after (.orReg 5#5 6#5) { machine with regs := holding [(5#5, 0x80000000#32), (6#5, 0x1#32)], psw := 0x28#32 }
      (fun t => t.gpr 6#5 = 0x80000001#32 ∧ t.psw = 0x2A#32 ∧ t.pc = 0x1002#32) := by decide

/-- G10. -/
theorem test_ori :
    after (.ori 0x8000#16 5#5 6#5) { machine with regs := holding [(5#5, 0x10000#32)] }
      (fun t => t.gpr 6#5 = 0x18000#32 ∧ t.psw = 0x20#32 ∧ t.pc = 0x1004#32) := by decide

/-- G23. -/
theorem test_sar_reg :
    after (.sarReg 5#5 6#5) { machine with regs := holding [(5#5, 0xFFFFFF24#32), (6#5, 0x7FFFFFFF#32)] }
      (fun t => t.gpr 6#5 = 0x7FFFFFF#32 ∧ t.psw = 0x28#32 ∧ t.pc = 0x1004#32) := by decide

/-- G20, G22. -/
theorem test_sar_imm5 :
    after (.sarImm5 1#5 6#5) { machine with regs := holding [(6#5, 0x80000001#32)] }
      (fun t => t.gpr 6#5 = 0xC0000000#32 ∧ t.psw = 0x2A#32 ∧ t.pc = 0x1002#32) ∧
    after (.sarImm5 0#5 6#5) { machine with regs := holding [(6#5, 0x80000000#32)], psw := 0x2C#32 }
      (fun t => t.psw = 0x22#32 ∧ t.pc = 0x1002#32) := by decide

/-- G26. -/
theorem test_shl_reg :
    after (.shlReg 5#5 6#5) { machine with regs := holding [(5#5, 0x20#32), (6#5, 0xFFFFFFFF#32)], psw := 0x28#32 }
      (fun t => t.psw = 0x22#32 ∧ t.pc = 0x1004#32) := by decide

/-- G24, G25. -/
theorem test_shl_imm5 :
    after (.shlImm5 1#5 6#5) { machine with regs := holding [(6#5, 0x80000001#32)] }
      (fun t => t.gpr 6#5 = 0x2#32 ∧ t.psw = 0x28#32 ∧ t.pc = 0x1002#32) ∧
    after (.shlImm5 31#5 6#5) { machine with regs := holding [(6#5, 0x3#32)] }
      (fun t => t.gpr 6#5 = 0x80000000#32 ∧ t.psw = 0x2A#32 ∧ t.pc = 0x1002#32) := by decide

/-- G29. -/
theorem test_shr_reg :
    after (.shrReg 5#5 6#5) { machine with regs := holding [(5#5, 0x1#32), (6#5, 0x1#32)] }
      (fun t => t.gpr 6#5 = 0x0#32 ∧ t.psw = 0x29#32 ∧ t.pc = 0x1004#32) := by decide

/-- G27, G28. -/
theorem test_shr_imm5 :
    after (.shrImm5 4#5 6#5) { machine with regs := holding [(6#5, 0x800000F8#32)] }
      (fun t => t.gpr 6#5 = 0x800000F#32 ∧ t.psw = 0x28#32 ∧ t.pc = 0x1002#32) ∧
    after (.shrImm5 31#5 6#5) { machine with regs := holding [(6#5, 0xC0000000#32)] }
      (fun t => t.gpr 6#5 = 0x1#32 ∧ t.psw = 0x28#32 ∧ t.pc = 0x1002#32) := by decide

/-- G30, G31. -/
theorem test_sxb :
    after (.sxb 6#5) { machine with regs := holding [(6#5, 0x12345680#32)], psw := 0x3F#32 }
      (fun t => t.gpr 6#5 = 0xFFFFFF80#32 ∧ t.psw = 0x3F#32 ∧ t.pc = 0x1002#32) ∧
    after (.sxb 6#5) { machine with regs := holding [(6#5, 0xFFFFFF7F#32)] }
      (fun t => t.gpr 6#5 = 0x7F#32 ∧ t.psw = 0x20#32 ∧ t.pc = 0x1002#32) := by decide

/-- G32. -/
theorem test_sxh :
    after (.sxh 6#5) { machine with regs := holding [(6#5, 0x12348000#32)] }
      (fun t => t.gpr 6#5 = 0xFFFF8000#32 ∧ t.psw = 0x20#32 ∧ t.pc = 0x1002#32) := by decide

/-- G6, G7. -/
theorem test_tst :
    after (.tst 5#5 6#5) { machine with regs := holding [(5#5, 0x80000000#32), (6#5, 0xFFFFFFFF#32)] }
      (fun t => t.psw = 0x22#32 ∧ t.pc = 0x1002#32) ∧
    after (.tst 5#5 6#5) { machine with regs := holding [(5#5, 0x1#32), (6#5, 0x2#32)] }
      (fun t => t.psw = 0x21#32 ∧ t.pc = 0x1002#32) := by decide

/-- G3. -/
theorem test_xor_reg :
    after (.xorReg 6#5 6#5) { machine with regs := holding [(6#5, 0x12345678#32)] }
      (fun t => t.gpr 6#5 = 0x0#32 ∧ t.psw = 0x21#32 ∧ t.pc = 0x1002#32) := by decide

/-- G11. -/
theorem test_xori :
    after (.xori 0xFFFF#16 5#5 6#5) { machine with regs := holding [(5#5, 0xFFFF00FF#32)] }
      (fun t => t.gpr 6#5 = 0xFFFFFF00#32 ∧ t.psw = 0x22#32 ∧ t.pc = 0x1004#32) := by decide

/-- G33. -/
theorem test_zxb :
    after (.zxb 6#5) { machine with regs := holding [(6#5, 0xFFFFFFFF#32)] }
      (fun t => t.gpr 6#5 = 0xFF#32 ∧ t.psw = 0x20#32 ∧ t.pc = 0x1002#32) := by decide

/-- G34. -/
theorem test_zxh :
    after (.zxh 6#5) { machine with regs := holding [(6#5, 0xFFFFFFFF#32)], psw := 0x3F#32 }
      (fun t => t.gpr 6#5 = 0xFFFF#32 ∧ t.psw = 0x3F#32 ∧ t.pc = 0x1002#32) := by decide

/-- B2, B3. -/
theorem test_bcond :
    after (.bcond .nz 0x10#9) { machine with psw := 0x21#32 } (fun t => t.psw = 0x21#32 ∧ t.pc = 0x1002#32) ∧
    after (.bcond .lt 0x1FC#9) { machine with psw := 0x22#32 } (fun t => t.psw = 0x22#32 ∧ t.pc = 0xFFC#32) := by
  decide

/-- B10, B11. -/
theorem test_jarl :
    after (.jarl 0x100#22 31#5) { machine with psw := 0x3F#32 }
      (fun t => t.gpr 31#5 = 0x1004#32 ∧ t.psw = 0x3F#32 ∧ t.pc = 0x1100#32) ∧
    after (.jarl 0x3FF000#22 10#5) machine (fun t => t.gpr 10#5 = 0x1004#32 ∧ t.psw = 0x20#32 ∧ t.pc = 0x0#32) := by
  decide

/-- B15, B16. -/
theorem test_jmp :
    after (.jmp 5#5) { machine with regs := holding [(5#5, 0x2001#32)] }
      (fun t => t.psw = 0x20#32 ∧ t.pc = 0x2000#32) ∧
    after (.jmp 5#5) { machine with regs := holding [(5#5, 0xFC002000#32)] }
      (fun t => t.psw = 0x20#32 ∧ t.pc = 0x2000#32) := by decide

/-- B13, B14. -/
theorem test_jr :
    after (.jr 0x3FFFFE#22) machine (fun t => t.psw = 0x20#32 ∧ t.pc = 0xFFE#32) ∧
    after (.jr 0x12346#22) machine (fun t => t.psw = 0x20#32 ∧ t.pc = 0x13346#32) := by decide

/-- N1, N2. -/
theorem test_set1_disp :
    after (.set1Disp 7#3 0x4#16 1#5) { machine with
        regs := holding [(1#5, 0x3FF0000#32)]
        psw := 0x3E#32
        mem := placeBytes [0x01#8] 0x3FF0004 [] }
      (fun t => t.byteAt 0x3FF0004#32 = 0x81#8 ∧ t.psw = 0x3F#32 ∧ t.pc = 0x1004#32) ∧
    after (.set1Disp 0#3 0x4#16 1#5) { machine with regs := holding [(1#5, 0x3FF0000#32)], mem := placeBytes [0x01#8] 0x3FF0004 [] }
      (fun t => t.psw = 0x20#32 ∧ t.pc = 0x1004#32) := by decide

/-- N7. -/
theorem test_set1_reg :
    after (.set1Reg 2#5 1#5) { machine with
        regs := holding [(1#5, 0x3FF0004#32), (2#5, 0xFFFFFFFA#32)]
        mem := placeBytes [0x00#8] 0x3FF0004 [] }
      (fun t => t.byteAt 0x3FF0004#32 = 0x4#8 ∧ t.psw = 0x21#32 ∧ t.pc = 0x1004#32) := by decide

/-- N4. -/
theorem test_not1_disp :
    after (.not1Disp 5#3 0x0#16 1#5) { machine with regs := holding [(1#5, 0x3FF0004#32)], mem := placeBytes [0x00#8] 0x3FF0004 [] }
      (fun t => t.byteAt 0x3FF0004#32 = 0x20#8 ∧ t.psw = 0x21#32 ∧ t.pc = 0x1004#32) := by decide

/-- N9. -/
theorem test_not1_reg :
    after (.not1Reg 2#5 1#5) { machine with
        regs := holding [(1#5, 0x3FF0004#32), (2#5, 0x8#32)]
        mem := placeBytes [0x01#8] 0x3FF0004 [] }
      (fun t => t.byteAt 0x3FF0004#32 = 0x0#8 ∧ t.psw = 0x20#32 ∧ t.pc = 0x1004#32) := by decide

/-- N3. -/
theorem test_clr1_disp :
    after (.clr1Disp 3#3 0xFFFF#16 1#5) { machine with regs := holding [(1#5, 0x3FF0005#32)], mem := placeBytes [0xFF#8] 0x3FF0004 [] }
      (fun t => t.byteAt 0x3FF0004#32 = 0xF7#8 ∧ t.psw = 0x20#32 ∧ t.pc = 0x1004#32) := by decide

/-- N8. -/
theorem test_clr1_reg :
    after (.clr1Reg 2#5 1#5) { machine with
        regs := holding [(1#5, 0x3FF0004#32), (2#5, 0x7#32)]
        mem := placeBytes [0x80#8] 0x3FF0004 [] }
      (fun t => t.byteAt 0x3FF0004#32 = 0x0#8 ∧ t.psw = 0x20#32 ∧ t.pc = 0x1004#32) := by decide

/-- N5, N6. -/
theorem test_tst1_disp :
    after (.tst1Disp 6#3 0x0#16 1#5) { machine with regs := holding [(1#5, 0x3FF0004#32)], mem := placeBytes [0x40#8] 0x3FF0004 [] }
      (fun t => t.psw = 0x20#32 ∧ t.pc = 0x1004#32) ∧
    after (.tst1Disp 6#3 0x0#16 1#5) { machine with regs := holding [(1#5, 0x3FF0004#32)], mem := placeBytes [0xBF#8] 0x3FF0004 [] }
      (fun t => t.psw = 0x21#32 ∧ t.pc = 0x1004#32) := by decide

/-- N10. -/
theorem test_tst1_reg :
    after (.tst1Reg 0#5 1#5) { machine with regs := holding [(1#5, 0x3FF0004#32)], mem := placeBytes [0xFE#8] 0x3FF0004 [] }
      (fun t => t.psw = 0x21#32 ∧ t.pc = 0x1004#32) := by decide

/-- X24, X25. -/
theorem test_callt :
    after (.callt 3#6) { machine with psw := 0x2B#32, ctbp := 0x2000#32, mem := placeBytes [0x40#8, 0x00#8] 0x2006 [] }
      (fun t => t.ctpc = 0x1002#32 ∧ t.ctpsw = 0x2B#32 ∧ t.psw = 0x2B#32 ∧ t.pc = 0x2040#32) ∧
    after (.callt 63#6) { machine with ctbp := 0x2000#32, mem := placeBytes [0xFE#8, 0xFF#8] 0x207E [] }
      (fun t => t.ctpc = 0x1002#32 ∧ t.ctpsw = 0x20#32 ∧ t.psw = 0x20#32 ∧ t.pc = 0x11FFE#32) := by decide

/-- X26. -/
theorem test_ctret :
    after .ctret { machine with ctpc := 0x1003#32, ctpsw := 0xFF#32 }
      (fun t => t.psw = 0xFF#32 ∧ t.pc = 0x1002#32) := by decide

/-- X2. -/
theorem test_di :
    after .di { machine with psw := 0x0#32 } (fun t => t.psw = 0x20#32 ∧ t.pc = 0x1004#32) := by decide

/-- X39. -/
theorem test_dispose :
    after (.dispose 4#5 0x803#12) { machine with
        regs := holding [(3#5, 0x3FF0FE4#32), (20#5, 0xFC002345#32), (21#5, 0xBBBBBBBB#32), (31#5, 0xCCCCCCCC#32)]
        mem := placeBytes [0x31#8, 0x31#8, 0x31#8, 0x31#8, 0x21#8, 0x21#8, 0x21#8, 0x21#8, 0x20#8, 0x20#8, 0x20#8,
          0x20#8] 0x3FF0FF4 [] }
      (fun t => t.gpr 3#5 = 0x3FF1000#32 ∧ t.gpr 20#5 = 0x20202020#32 ∧ t.gpr 21#5 = 0x21212121#32 ∧ t.gpr 31#5 =
        0x31313131#32 ∧ t.psw = 0x20#32 ∧ t.pc = 0x1004#32) := by decide

/-- X40, X42. -/
theorem test_dispose_jump :
    after (.disposeJump 4#5 0x803#12 31#5) { machine with
        regs := holding [(3#5, 0x3FF0FE4#32), (20#5, 0xFC002345#32), (21#5, 0xBBBBBBBB#32), (31#5, 0xCCCCCCCC#32)]
        mem := placeBytes [0x21#8, 0x21#8, 0x21#8, 0x21#8, 0x20#8, 0x20#8, 0x20#8, 0x20#8] 0x3FF0FF8 (placeBytes
          [0x45#8, 0x23#8] 0x3FF0FF4 []) }
      (fun t => t.gpr 3#5 = 0x3FF1000#32 ∧ t.gpr 20#5 = 0x20202020#32 ∧ t.gpr 21#5 = 0x21212121#32 ∧ t.gpr 31#5 =
        0x2345#32 ∧ t.psw = 0x20#32 ∧ t.pc = 0x2344#32) ∧
    after (.disposeJump 8#5 0x0#12 20#5) { machine with
        regs := holding [(3#5, 0x3FF0FE4#32), (20#5, 0xFC002345#32), (21#5, 0xBBBBBBBB#32), (31#5, 0xCCCCCCCC#32)]
        mem := placeBytes [0x31#8, 0x31#8, 0x31#8, 0x31#8, 0x21#8, 0x21#8, 0x21#8, 0x21#8, 0x20#8, 0x20#8, 0x20#8,
          0x20#8] 0x3FF0FF4 [] }
      (fun t => t.gpr 3#5 = 0x3FF1004#32 ∧ t.psw = 0x20#32 ∧ t.pc = 0x2344#32) := by decide

/-- X3. -/
theorem test_ei :
    after .ei { machine with psw := 0xA0#32 } (fun t => t.psw = 0x80#32 ∧ t.pc = 0x1004#32) := by decide

/-- X4. -/
theorem test_halt :
    after .halt machine (fun t => t.halted = true ∧ t.psw = 0x20#32 ∧ t.pc = 0x1004#32) := by decide

/-- X7, X8. -/
theorem test_ldsr :
    after (.ldsr 6#5 5#5) { machine with regs := holding [(6#5, 0xFFFFFFFF#32)], psw := 0x0#32 }
      (fun t => t.psw = 0xFF#32 ∧ t.pc = 0x1004#32) ∧
    after (.ldsr 6#5 20#5) { machine with regs := holding [(6#5, 0xFFFFFFFF#32)] }
      (fun t => t.ctbp = 0x3FFFFFE#32 ∧ t.psw = 0x20#32 ∧ t.pc = 0x1004#32) := by decide

/-- X1. -/
theorem test_nop :
    after .nop { machine with psw := 0x3F#32 } (fun t => t.psw = 0x3F#32 ∧ t.pc = 0x1002#32) := by decide

/-- X29, X38. -/
theorem test_prepare :
    after (.prepare 0x803#12 4#5) { machine with
        regs := holding [(20#5, 0x20202020#32), (21#5, 0x21212121#32), (22#5, 0x22222222#32), (23#5, 0x23232323#32),
          (24#5, 0x24242424#32), (25#5, 0x25252525#32), (26#5, 0x26262626#32), (27#5, 0x27272727#32), (28#5,
          0x28282828#32), (29#5, 0x29292929#32), (30#5, 0x30303030#32), (31#5, 0x31313131#32), (3#5,
          0x3FF1000#32)] }
      (fun t => t.gpr 3#5 = 0x3FF0FE4#32 ∧ t.loadWord 0x3FF0FF4#32 = 0x31313131#32 ∧ t.loadWord 0x3FF0FF8#32 =
        0x21212121#32 ∧ t.loadWord 0x3FF0FFC#32 = 0x20202020#32 ∧ t.psw = 0x20#32 ∧ t.pc = 0x1004#32) ∧
    after (.prepare 0x1#12 0#5) { machine with
        regs := holding [(20#5, 0x20202020#32), (21#5, 0x21212121#32), (22#5, 0x22222222#32), (23#5, 0x23232323#32),
          (24#5, 0x24242424#32), (25#5, 0x25252525#32), (26#5, 0x26262626#32), (27#5, 0x27272727#32), (28#5,
          0x28282828#32), (29#5, 0x29292929#32), (30#5, 0x30303030#32), (31#5, 0x31313131#32), (3#5,
          0x3FF1003#32)] }
      (fun t => t.gpr 3#5 = 0x3FF0FFF#32 ∧ t.loadWord 0x3FF0FFC#32 = 0x20202020#32 ∧ t.psw = 0x20#32 ∧ t.pc =
        0x1004#32) := by decide

/-- X34. -/
theorem test_prepare_sp :
    after (.prepareSp 0x300#12 1#5) { machine with
        regs := holding [(20#5, 0x20202020#32), (21#5, 0x21212121#32), (22#5, 0x22222222#32), (23#5, 0x23232323#32),
          (24#5, 0x24242424#32), (25#5, 0x25252525#32), (26#5, 0x26262626#32), (27#5, 0x27272727#32), (28#5,
          0x28282828#32), (29#5, 0x29292929#32), (30#5, 0x30303030#32), (31#5, 0x31313131#32), (3#5,
          0x3FF1000#32)] }
      (fun t => t.gpr 30#5 = 0x3FF0FF4#32 ∧ t.gpr 3#5 = 0x3FF0FF4#32 ∧ t.loadWord 0x3FF0FF8#32 = 0x29292929#32 ∧
        t.loadWord 0x3FF0FFC#32 = 0x28282828#32 ∧ t.psw = 0x20#32 ∧ t.pc = 0x1004#32) := by decide

/-- X35. -/
theorem test_prepare_imm16 :
    after (.prepareImm16 0x200#12 0#5 0x8000#16) { machine with
        regs := holding [(20#5, 0x20202020#32), (21#5, 0x21212121#32), (22#5, 0x22222222#32), (23#5, 0x23232323#32),
          (24#5, 0x24242424#32), (25#5, 0x25252525#32), (26#5, 0x26262626#32), (27#5, 0x27272727#32), (28#5,
          0x28282828#32), (29#5, 0x29292929#32), (30#5, 0x30303030#32), (31#5, 0x31313131#32), (3#5,
          0x3FF1000#32)] }
      (fun t => t.gpr 30#5 = 0xFFFF8000#32 ∧ t.gpr 3#5 = 0x3FF0FFC#32 ∧ t.loadWord 0x3FF0FFC#32 = 0x29292929#32 ∧
        t.psw = 0x20#32 ∧ t.pc = 0x1006#32) := by decide

/-- X36. -/
theorem test_prepare_imm16_hi :
    after (.prepareImm16Hi 0x200#12 0#5 0x8000#16) { machine with
        regs := holding [(20#5, 0x20202020#32), (21#5, 0x21212121#32), (22#5, 0x22222222#32), (23#5, 0x23232323#32),
          (24#5, 0x24242424#32), (25#5, 0x25252525#32), (26#5, 0x26262626#32), (27#5, 0x27272727#32), (28#5,
          0x28282828#32), (29#5, 0x29292929#32), (30#5, 0x30303030#32), (31#5, 0x31313131#32), (3#5,
          0x3FF1000#32)] }
      (fun t => t.gpr 30#5 = 0x80000000#32 ∧ t.gpr 3#5 = 0x3FF0FFC#32 ∧ t.loadWord 0x3FF0FFC#32 = 0x29292929#32 ∧
        t.psw = 0x20#32 ∧ t.pc = 0x1006#32) := by decide

/-- X37. -/
theorem test_prepare_imm32 :
    after (.prepareImm32 0x200#12 0#5 0x12345678#32) { machine with
        regs := holding [(20#5, 0x20202020#32), (21#5, 0x21212121#32), (22#5, 0x22222222#32), (23#5, 0x23232323#32),
          (24#5, 0x24242424#32), (25#5, 0x25252525#32), (26#5, 0x26262626#32), (27#5, 0x27272727#32), (28#5,
          0x28282828#32), (29#5, 0x29292929#32), (30#5, 0x30303030#32), (31#5, 0x31313131#32), (3#5,
          0x3FF1000#32)] }
      (fun t => t.gpr 30#5 = 0x12345678#32 ∧ t.gpr 3#5 = 0x3FF0FFC#32 ∧ t.loadWord 0x3FF0FFC#32 = 0x29292929#32 ∧
        t.psw = 0x20#32 ∧ t.pc = 0x1008#32) := by decide

/-- X21, X23. -/
theorem test_reti :
    after .reti { machine with
        psw := 0xA0#32
        eipc := 0x2000#32
        eipsw := 0xF#32
        fepc := 0x3000#32
        fepsw := 0x1#32 }
      (fun t => t.psw = 0x1#32 ∧ t.pc = 0x3000#32) ∧
    after .reti { machine with
        psw := 0xE0#32
        eipc := 0x2000#32
        eipsw := 0x40#32
        fepc := 0x3000#32
        fepsw := 0x80#32 }
      (fun t => t.psw = 0x40#32 ∧ t.pc = 0x2000#32) := by decide

/-- X12, X13. -/
theorem test_stsr :
    after (.stsr 5#5 7#5) { machine with psw := 0xB7#32 }
      (fun t => t.gpr 7#5 = 0xB7#32 ∧ t.psw = 0xB7#32 ∧ t.pc = 0x1004#32) ∧
    after (.stsr 4#5 7#5) { machine with ecr := 0x100045#32 }
      (fun t => t.gpr 7#5 = 0x100045#32 ∧ t.psw = 0x20#32 ∧ t.pc = 0x1004#32) := by decide

/-- X27, X28. -/
theorem test_switch :
    after (.switch 5#5) { machine with regs := holding [(5#5, 0x2#32)], mem := placeBytes [0x10#8, 0x00#8] 0x1006 [] }
      (fun t => t.psw = 0x20#32 ∧ t.pc = 0x1022#32) ∧
    after (.switch 5#5) { machine with regs := holding [(5#5, 0x0#32)], mem := placeBytes [0xFF#8, 0xFF#8] 0x1002 [] }
      (fun t => t.psw = 0x20#32 ∧ t.pc = 0x1000#32) := by decide

/-- X17, X18. -/
theorem test_trap :
    after (.trap 15#5) { machine with psw := 0x1F#32, ecr := 0x200000#32 }
      (fun t => t.ecr = 0x20004F#32 ∧ t.eipc = 0x1004#32 ∧ t.eipsw = 0x1F#32 ∧ t.psw = 0x7F#32 ∧ t.pc = 0x40#32) ∧
    after (.trap 16#5) { machine with psw := 0x80#32 }
      (fun t => t.eipc = 0x1004#32 ∧ t.eipsw = 0x80#32 ∧ t.ecr = 0x50#32 ∧ t.psw = 0xE0#32 ∧ t.pc = 0x50#32) := by
  decide

/-- D2. -/
theorem test_dbret :
    after .dbret { machine with psw := 0xE0#32, dbpc := 0x1002#32, dbpsw := 0xF#32, dir := 0x1#32 }
      (fun t => t.dir = 0x0#32 ∧ t.psw = 0xF#32 ∧ t.pc = 0x1002#32) := by decide

/-- D1. -/
theorem test_dbtrap :
    after .dbtrap { machine with psw := 0xF#32, ecr := 0x41#32 }
      (fun t => t.dbpc = 0x1002#32 ∧ t.dbpsw = 0xF#32 ∧ t.dir = 0x1#32 ∧ t.psw = 0xEF#32 ∧ t.pc = 0x60#32) := by
  decide

/-- D4. -/
theorem test_illegal_high :
    after (.illegalHigh 31#5 7#3 63#6 31#5 31#5) machine
      (fun t => t.dbpc = 0x1004#32 ∧ t.dbpsw = 0x20#32 ∧ t.dir = 0x1#32 ∧ t.psw = 0xE0#32 ∧ t.pc = 0x60#32) := by
  decide

/-- D3. -/
theorem test_illegal_seven :
    after (.illegalSeven 0#5 0#6 0#5 0#5) { machine with psw := 0x0#32 }
      (fun t => t.dbpc = 0x1004#32 ∧ t.dbpsw = 0x0#32 ∧ t.dir = 0x1#32 ∧ t.psw = 0xE0#32 ∧ t.pc = 0x60#32) := by
  decide

/-- A41, A47: a division by zero sets OV whatever its free values are (R250). -/
theorem test_division_by_zero_sets_ov (n : Nat) (s : State) :
    flagOf ((s.setFlags (divideByZero n).flags).advance 4#32).psw .ov = true := by
  rw [flagOf_setFlags]; rfl

/-! ### Instructions that are refused -/

/-- M7, X9, X10, X15, and RETI in the NMI1 handler (R427). -/
theorem test_refusals :
    refusal (exec (.mulReg 7#5 6#5 7#5) machine) = some .prohibitedRegisters ∧
    refusal (exec (.muluReg 7#5 6#5 7#5) machine) = some .prohibitedRegisters ∧
    refusal (exec (.ldsr 6#5 4#5) machine) = some (.reservedSystemRegister 4#5) ∧
    refusal (exec (.ldsr 6#5 21#5) machine) = some (.reservedSystemRegister 21#5) ∧
    refusal (exec (.stsr 6#5 7#5) machine) = some (.reservedSystemRegister 6#5) ∧
    refusal (exec .reti { machine with psw := 0xA0#32, ecr := 0x00200000#32 }) = some .nmiReturn := by decide

/-! ### Events and the step -/

/-- E1, E2, E3: an NMI taken. -/
theorem test_nmi :
    nextIs (step { machine with pc := 0x1234#32, psw := 0x0#32, script := [{ nmi0 := true }] })
      (fun t => t.fepc = 0x1234#32 ∧ t.fepsw = 0x0#32 ∧ t.ecr = 0x00100000#32 ∧ t.psw = 0xA0#32 ∧ t.pc = 0x10#32) ∧
    nextIs (step { machine with pc := 0x1234#32, psw := 0x2F#32, script := [{ nmi1 := true }] })
      (fun t => t.fepc = 0x1234#32 ∧ t.fepsw = 0x2F#32 ∧ t.ecr = 0x00200000#32 ∧ t.psw = 0xAF#32 ∧ t.pc = 0x20#32) ∧
    nextIs (step { machine with pc := 0x1234#32, psw := 0x60#32, ecr := 0x41#32, script := [{ nmi2 := true }] })
      (fun t => t.fepc = 0x1234#32 ∧ t.fepsw = 0x60#32 ∧ t.ecr = 0x00300041#32 ∧ t.psw = 0xA0#32 ∧ t.pc = 0x30#32) := by
  decide

/-- E8, E11: a maskable interrupt taken, outside HALT mode and in it. -/
theorem test_maskable :
    nextIs (step { machine with pc := 0x1234#32, psw := 0x4F#32, ecr := 0x00100000#32,
                                script := [{ intc := .present 0x80#16 }] })
      (fun t => t.eipc = 0x1234#32 ∧ t.eipsw = 0x4F#32 ∧ t.ecr = 0x00100080#32 ∧ t.psw = 0x2F#32 ∧ t.pc = 0x80#32) ∧
    nextIs (step { machine with pc := 0x2004#32, psw := 0x0#32, halted := true,
                                script := [{ intc := .present 0x120#16 }] })
      (fun t => t.eipc = 0x2004#32 ∧ t.ecr = 0x120#32 ∧ t.pc = 0x120#32 ∧ t.halted = false) := by decide

/-- E4, E9: an NMI held by NP, a maskable request held by ID; the instruction at the pc (NOP) runs. -/
theorem test_held :
    nextIs (step { machine with psw := 0x80#32, script := [{ nmi0 := true }] })
      (fun t => t.pc = 0x1002#32 ∧ t.psw = 0x80#32 ∧ t.req = { nmi0 := true }) ∧
    nextIs (step { machine with script := [{ intc := .present 0x80#16 }] })
      (fun t => t.pc = 0x1002#32 ∧ t.psw = 0x20#32 ∧ t.req = { int := some 0x80#16 }) := by decide

/-- E14: the reset input. -/
theorem test_reset_input :
    nextIs (step { machine with pc := 0x2004#32, psw := 0xFF#32, ecr := 0x41#32, halted := true,
                                script := [{ reset := true }] })
      (fun t => t.pc = 0x0#32 ∧ t.psw = 0x20#32 ∧ t.ecr = 0x0#32 ∧ t.halted = false) := by decide

/-- DISPOSE abandoned after its first load: r31 is loaded, sp and the pc are not changed (R95). -/
theorem test_abandoned_dispose :
    nextIs (step { machine with
        psw := 0x0#32, regs := holding [(3#5, 0x2000#32)]
        mem := placeBytes [0x31#8, 0x31#8, 0x31#8, 0x31#8, 0x20#8] 0x2000 (program [.dispose 0#5 0x801#12] 0x1000)
        script := [{ nmi0 := true, progress := 1 }] })
      (fun t => t.gpr 31#5 = 0x31313131#32 ∧ t.gpr 20#5 = 0x0#32 ∧ t.gpr 3#5 = 0x2000#32 ∧ t.fepc = 0x1000#32) := by
  decide

/-- PREPARE abandoned after its first store: r20 stands in the first word below sp, r31 is not stored, no register is
changed (R95, R341). -/
theorem test_abandoned_prepare :
    nextIs (step { machine with
        psw := 0x0#32, regs := holding [(3#5, 0x2000#32), (31#5, 0x31#32), (20#5, 0x20#32)]
        mem := program [.prepareImm16 0x801#12 1#5 0x7F#16] 0x1000
        script := [{ intc := .present 0x80#16, progress := 1 }] })
      (fun t => t.mem.read 0x1FFC = 0x20#8 ∧ t.mem.read 0x1FF8 = 0x0#8 ∧ t.gpr 3#5 = 0x2000#32 ∧ t.gpr 30#5 = 0x0#32 ∧
        t.eipc = 0x1000#32) := by decide

/-- Reset in the middle of a misaligned ST.W: its second and third byte are stored, the others not (R500, D11). -/
theorem test_reset_inside_a_store :
    nextIs (step { machine with
        product := misaligning, regs := holding [(1#5, 0x2001#32), (2#5, 0x44332211#32)]
        mem := program [.stW 2#5 0x0#16 1#5] 0x1000
        script := [{ reset := true, cut := [.kept, .stored, .stored] }] })
      (fun t => t.pc = 0x0#32 ∧ t.psw = 0x20#32 ∧ t.unsynced = [] ∧
        [0x2000, 0x2001, 0x2002, 0x2003, 0x2004].map t.mem.read = [0x0#8, 0x0#8, 0x22#8, 0x33#8, 0x0#8]) := by decide

/-- A debug function trap is taken in HALT mode (R438, D8). -/
theorem test_debug_trap_in_halt_mode :
    nextIs (step { machine with pc := 0x2004#32, psw := 0x20#32, halted := true, script := [{ debugTrap := true }] })
      (fun t => t.dbpc = 0x2004#32 ∧ t.dbpsw = 0x20#32 ∧ t.psw = 0xE0#32 ∧ t.pc = 0x60#32) := by decide

/-- The instruction placed by `withFetchWord` is the one the next step runs: ADD r5, r6 at reset's pc. -/
theorem test_withFetchWord :
    decodeTableWord 16 0x31C5 = some (.addReg 5#5 6#5) ∧
    nextIs (step (({ State.reset with product := plainProduct, regs := holding [(5#5, 2#32), (6#5, 3#32)] } :
        State).withFetchWord 16 0x31C5))
      (fun t => t.gpr 6#5 = 0x5#32 ∧ t.pc = 0x2#32) := by decide

/-! ### Witnesses: states and operands that meet the hypotheses of the obligations -/

theorem witness_DecodeInvertsEncode :
    (Instr.ldHu 0xFFFE#16 31#5 31#5).wf = true ∧ (Instr.sldW 0xFC#8 0#5).wf = true ∧
    (Instr.movReg 1#5 0#5).wf = true ∧ (Instr.disposeJump 31#5 0xFFF#12 1#5).wf = true := by decide

theorem witness_EncodeInvertsDecode : decode [0x31C5#16] = .ok (.addReg 5#5 6#5) := by decide

/-- For each clause with a premise, the ends of the ranges it leaves open. -/
theorem witness_UndefinedEncodingsDecodeToNothing :
    ((0#5 : Reg) ≠ 31#5 ∧ (30#5 : Reg) ≠ 31#5) ∧
    ([0b01001#5, 0b00101#5, 0b11111#5].all fun form =>
      form.getLsbD 0 = true ∧ form ≠ 0b00001#5 ∧ form.extractLsb' 0 3 ≠ 0b011#3) = true ∧
    ([(0#5, 1#5), (0#5, 15#5), (0#5, 31#5), (1#5, 16#5)].all fun p =>
      ¬ (p.1 = 0#5 ∧ (p.2 = 0b00000#5 ∨ p.2 = 0b10000#5))) = true ∧
    (16#5).getLsbD 4 = true ∧ (31#5).getLsbD 4 = true ∧
    ([(1#5, 0#4), (0#5, 1#4), (31#5, 15#4)].all fun p => ¬ (p.1 = 0#5 ∧ p.2 = 0#4)) = true ∧
    ([(1#5, 3#4), (0#5, 4#4), (0#5, 15#4)].all fun p => ¬ (p.1 = 0#5 ∧ p.2.toNat < 4)) = true ∧
    2 ≤ (2#4).toNat ∧ 4 ≤ (4#4).toNat ∧ (1#5 : Reg) ≠ 0#5 := by decide

/-- Both ways into the pattern, at the ends of the don't-care bits. -/
theorem witness_IllegalPatternDecodes :
    [(0x07E0#16, 0x0380#16), (0xFFFF#16, 0xFBFE#16), (0x07E0#16, 0x0400#16), (0xFFFF#16, 0xFFFE#16)].all (fun p =>
      p.1.extractLsb' 5 6 = 0b111111#6 ∧ p.2.getLsbD 0 = false ∧
        (p.2.getLsbD 10 = true ∨ p.2.extractLsb' 7 3 = 0b111#3)) = true := by decide

/-- ADD r5, r6 at the pc, which runs. -/
theorem witness_StepRunsTheDecodedInstruction :
    let s := { machine with mem := program [.addReg 5#5 6#5] 0x1000 }
    s.holdsCode (.addReg 5#5 6#5) ∧ s.executing ∧ nextIs (exec (.addReg 5#5 6#5) s.met) (fun _ => true) := by
  unfold State.holdsCode State.executing; decide

/-- The same with a maskable request that the environment defers. -/
theorem witness_StepRunsTheDecodedInstruction_deferred :
    let s := { machine with
      psw := 0x0#32, mem := program [.addReg 5#5 6#5] 0x1000
      script := [{ intc := .present 0x80#16, defer := true }] }
    s.holdsCode (.addReg 5#5 6#5) ∧ s.executing ∧ s.met.pendingEvent ≠ none ∧
      nextIs (exec (.addReg 5#5 6#5) s.met) (fun _ => true) := by
  unfold State.holdsCode State.executing; decide

/-- MUL r7, r6, r7 at the pc, which is refused. -/
theorem witness_StepRunsTheDecodedInstruction_refused :
    let s := { machine with mem := program [.mulReg 7#5 6#5 7#5] 0x1000 }
    s.holdsCode (.mulReg 7#5 6#5 7#5) ∧ s.executing ∧
      refusal (exec (.mulReg 7#5 6#5 7#5) s.met) = some .prohibitedRegisters := by
  unfold State.holdsCode State.executing; decide

/-- An undefined word; the ends of the ranges that may not be executed from; an instruction of four and one of eight
bytes that run into such a range. -/
theorem witness_StepStopsAtUnusableCode :
    (let s := { machine with mem := placeBytes [0x40#8] 0x1000 [] }
     s.executing ∧ decode (s.met.fetchHalves 0 s.pc.toNat 4) = .error .divhReg1Zero) ∧
    ([0x01000000#32, 0x03FEFFFE#32, 0x03FFF000#32, 0x03FFFFFE#32].all fun pc =>
      let s := { machine with pc := pc }
      usable s.pc.toNat = false ∧ decode (s.met.fetchHalves 0 s.pc.toNat 0) = .error .truncated) = true ∧
    (let s := { machine with pc := 0x00FFFFFE#32, mem := program [.addi 1#16 5#5 6#5] 0x00FFFFFE }
     s.executing ∧ usable s.pc.toNat = true ∧ usable (s.pc.toNat + 2) = false ∧
       decode (s.met.fetchHalves 0 s.pc.toNat 1) = .error .truncated) ∧
    (let s := { machine with pc := 0x03FFEFFA#32, mem := program [.prepareImm32 1#12 0#5 1#32] 0x03FFEFFA }
     s.executing ∧ (∀ j < 3, usable (s.pc.toNat + 2 * j) = true) ∧ usable (s.pc.toNat + 2 * 3) = false ∧
       decode (s.met.fetchHalves 0 s.pc.toNat 3) = .error .truncated) := by unfold State.executing; decide

/-- A store, a taken and a not taken branch, each run; and an NMI, a debug function trap and an abandoned PREPARE taken. -/
theorem witness_StepStopsAtUnusableCode_record :
    (∀ i ∈ [Instr.stW 2#5 0x4#16 1#5, .bcond .z (-4), .bcond .nz (-4)], after i machine (fun _ => true)) ∧
    Instr.transfers machine (.stW 2#5 0x4#16 1#5) = false ∧ Instr.transfers machine (.bcond .z (-4)) = false ∧
    Instr.transfers machine (.bcond .nz (-4)) = true ∧
    (let s := { machine with mem := program [.prepare 0x801#12 1#5] 0x1000, script := [{ nmi0 := true, progress := 1 }] }
     s.input.reset = false ∧ s.met.pendingEvent = some .nmi0 ∧ s.sampling) ∧
    (let s := { machine with script := [{ debugTrap := true }] }
     s.input.reset = false ∧ s.met.pendingEvent = some .debugTrap) := by
  unfold State.sampling; decide

theorem witness_StepStopsAtUnusableCode_unsynced :
    let i := Instr.prepareImm32 1#12 0#5 0x12345678#32
    let s := { machine with mem := program [i] 0x1000, unsynced := [0x1000, 0x1007] }
    s.executing ∧ decode (s.met.fetchHalves 0 s.pc.toNat 4) = .ok i ∧
      (0 < i.length ∧ s.pc.toNat + 0 ∈ s.unsynced) ∧ (7 < i.length ∧ s.pc.toNat + 7 ∈ s.unsynced) := by
  unfold State.executing; decide

/-- A state that meets the invariant and steps. -/
theorem witness_StepKeepsInvariant : machine.Inv ∧ nextIs (step machine) (fun _ => true) :=
  ⟨by constructor <;> decide, by decide⟩

/-- Reset at a boundary, in HALT mode, at an undefined word, and in the middle of PREPARE with each fate of a byte. -/
theorem witness_ResetInputResets :
    (∀ s ∈ [{ machine with script := [{ reset := true }] },
        { machine with script := [{ reset := true, nmi2 := true, cut := [.stored] }], halted := true },
        { machine with mem := placeBytes [0x40#8] 0x1000 [], script := [{ reset := true, cut := [.stored] }] }],
      s.input.reset = true) ∧
    (let i := Instr.prepare 0x801#12 1#5
     let s := { machine with
       regs := holding [(3#5, 0x2002#32), (20#5, 0x20#32), (31#5, 0x31#32)], mem := program [i] 0x1000
       script := [{ reset := true, cut := [.stored, .kept, .spoiled] }] }
     s.input.reset = true ∧ s.halted = false ∧ s.mem.wf = true ∧ s.met.fetch = .instr i s.met ∧
       nextIs (exec i s.met) (fun _ => true) ∧
       (storeAddrs i s.met)[0]? = some 0x1FFC#32 ∧ s.input.cut[0]? = some .stored ∧
       (storeAddrs i s.met)[1]? = some 0x1FFD#32 ∧ s.input.cut[1]? = some .kept ∧
       (storeAddrs i s.met)[7]? = some 0x1FFB#32 ∧ s.input.cut[7]? = none) := by decide

theorem witness_DataAddressesAlign : plainProduct.misalign = false ∧ misaligning.misalign = true := by decide

/-- A memory in canonical form that holds something, for the statements about stores, bits and PREPARE. -/
theorem witness_canonical_memory : ({ machine with mem := [(0, 1#8), (2 ^ 32 - 1, 0xFF#8)] } : State).mem.wf = true := by
  decide

theorem witness_WordProductsAreExact :
    [(5#5, 6#5, 7#5), (7#5, 7#5, 7#5), (0#5, 6#5, 0#5), (5#5, 6#5, 6#5)].all (fun p =>
      ¬ (p.1 = p.2.2 ∧ p.1 ≠ p.2.1 ∧ p.1 ≠ 0#5 ∧ p.2.2 ≠ 0#5)) = true := by decide

theorem witness_ProhibitedProductsAreRefused : (7#5 : Reg) = 7#5 ∧ 7#5 ≠ (6#5 : Reg) ∧ 7#5 ≠ (0#5 : Reg) := by decide

/-- Dividend in r6, divisor in r5, at the ends of the ranges: word divisors, then halfword divisors. -/
theorem witness_SignedDivisionsDivide :
    [(0x80000000#32, 0x1#32), (0x80000000#32, 0xFFFFFFFE#32), (0x80000001#32, 0xFFFFFFFF#32)].all (fun p =>
      let s := { machine with regs := holding [(6#5, p.1), (5#5, p.2)] }
      s.gpr 5#5 ≠ 0#32 ∧ ¬ (s.gpr 6#5 = 0x80000000#32 ∧ s.gpr 5#5 = 0xFFFFFFFF#32)) = true ∧
    [(0x80000000#32, 0xABCD0001#32), (0x7FFFFFFF#32, 0x8000#32), (0x80000001#32, 0xFFFF#32)].all (fun p =>
      let s := { machine with regs := holding [(6#5, p.1), (5#5, p.2)] }
      let h : Word := ((s.gpr 5#5).extractLsb' 0 16).signExtend 32
      h ≠ 0#32 ∧ ¬ (s.gpr 6#5 = 0x80000000#32 ∧ h = 0xFFFFFFFF#32)) = true := by decide

theorem witness_UnsignedDivisionsDivide :
    [0x1#32, 0xFFFFFFFF#32].all (fun d =>
      let s := { machine with regs := holding [(5#5, d)] }
      s.gpr 5#5 ≠ 0#32 ∧ ((s.gpr 5#5).extractLsb' 0 16).setWidth 32 ≠ 0#32) = true := by decide

theorem witness_DivisionOverflows :
    let s := { machine with regs := holding [(6#5, 0x80000000#32), (5#5, 0xFFFFFFFF#32)] }
    s.gpr 6#5 = 0x80000000#32 ∧ s.gpr 5#5 = 0xFFFFFFFF#32 ∧ (s.gpr 5#5).extractLsb' 0 16 = 0xFFFF#16 := by decide

theorem witness_DivisionsByZeroRun :
    (let s := { machine with regs := holding [(5#5, 0x10000#32)] }
     (s.gpr 5#5).extractLsb' 0 16 = 0#16 ∧ s.gpr 5#5 ≠ 0#32) ∧
    (machine.gpr 5#5).extractLsb' 0 16 = 0#16 ∧ machine.gpr 5#5 = 0#32 := by decide

/-- EP = 1 with NP = 1, EP = 0 with NP = 0, and EP = 0 with NP = 1 and FECC of NMI0 or none. -/
theorem witness_RetiSelectsTheSavedPair :
    flagOf ({ machine with psw := 0xE0#32 } : State).psw .ep = true ∧
    flagOf machine.psw .ep = false ∧ flagOf machine.psw .np = false ∧
    [0x00100000#32, 0x0#32].all (fun ecr =>
      let s := { machine with psw := 0xA0#32, ecr := ecr }
      flagOf s.psw .ep = false ∧ flagOf s.psw .np = true ∧ s.ecr.extractLsb' 16 16 ≠ 0x0020#16 ∧
        s.ecr.extractLsb' 16 16 ≠ 0x0030#16) = true := by decide

theorem witness_RetiFromFinalNMIIsRefused :
    [0x00200000#32, 0x00300000#32].all (fun ecr =>
      let s := { machine with psw := 0xA0#32, ecr := ecr }
      flagOf s.psw .ep = false ∧ flagOf s.psw .np = true ∧
        (s.ecr.extractLsb' 16 16 = 0x0020#16 ∨ s.ecr.extractLsb' 16 16 = 0x0030#16)) = true := by decide

theorem witness_ReservedSystemRegistersAreRefused :
    ∀ n ∈ [6#5, 15#5, 22#5, 31#5], (6 ≤ n.toNat ∧ n.toNat ≤ 15) ∨ 22 ≤ n.toNat := by decide

/-- sp not aligned, a frame of one word; r20, r21 and r31 with PREPARE form 1, r30 too where PREPARE sets ep and DISPOSE
jumps. -/
theorem witness_DisposeUndoesPrepare :
    let s := { machine with regs := holding [(3#5, 0x2003#32), (20#5, 0x20#32), (31#5, 0x31#32)] }
    s.mem.wf = true ∧
    ([0x803#12, 0xC03#12].all fun list12 => (List.range (4 * (listRegs list12).length)).all fun k =>
      s.product.kindAt (s.product.cell
        (stackAddr (s.gpr 3#5 - BitVec.ofNat 32 (4 * (listRegs list12).length)) + BitVec.ofNat 32 k)) = .ram) = true ∧
    nextIs (exec (.prepare 0x803#12 1#5) s) (fun t => nextIs (exec (.dispose 1#5 0x803#12) t) (fun _ => true)) ∧
    nextIs (exec (.prepareSp 0xC03#12 1#5) s) (fun t =>
      nextIs (exec (.disposeJump 1#5 0xC03#12 31#5) t) (fun _ => true)) ∧ (0xC03#12).getLsbD 10 = true := by decide

/-- Each NMI at a boundary that can take it: outside HALT mode and in it, NMI2 with NP = 1. -/
theorem witness_NMIsAreTaken :
    (let s := { machine with psw := 0xA0#32, script := [{ nmi2 := true }] }
     s.sampling ∧ s.met.req.nmi2 = true) ∧
    (let s := { machine with script := [{ nmi1 := true, nmi0 := true }], halted := true }
     s.sampling ∧ s.met.req.nmi2 = false ∧ flagOf s.psw .np = false ∧ s.met.req.nmi1 = true) ∧
    (let s := { machine with script := [{ nmi0 := true }] }
     s.sampling ∧ s.met.req.nmi2 = false ∧ flagOf s.psw .np = false ∧ s.met.req.nmi1 = false ∧ s.met.req.nmi0 = true) := by
  unfold State.sampling; decide

theorem witness_MaskableInterruptsAreTaken :
    let s := { machine with psw := 0x0#32, script := [{ intc := .present 0x80#16 }] }
    s.sampling ∧ s.met.req.nmi0 = false ∧ s.met.req.nmi1 = false ∧ s.met.req.nmi2 = false ∧
      flagOf s.psw .np = false ∧ flagOf s.psw .id = false ∧ s.met.req.int = some 0x80#16 := by
  unfold State.sampling; decide

/-- The INTC keeps, withdraws and presents a request, an instruction executed under them. -/
theorem witness_RequestsAreHeld_latched :
    ({ machine with req := { int := some 0x80#16 } } : State).input.intc = .keep ∧
    ({ machine with script := [{ intc := .withdraw }] } : State).input.intc = .withdraw ∧
    (let s := { machine with script := [{ intc := .present 0x80#16 }] }
     s.input.intc = .present 0x80#16 ∧ s.executing ∧ nextIs (step s) (fun _ => true)) := by
  unfold State.executing; decide

/-- Requests held by NP, by ID in HALT mode, and none at all; and a request deferred in HALT mode. -/
theorem witness_RequestsAreHeld :
    (∀ s ∈ [{ machine with psw := 0x80#32, script := [{ nmi1 := true, nmi0 := true, intc := .present 0x80#16 }] },
        { machine with halted := true, req := { int := some 0x80#16 } }, { machine with psw := 0x0#32 }],
      s.input.reset = false ∧ s.met.req.debugTrap = false ∧ s.met.req.nmi2 = false ∧
      ((flagOf s.psw .np = true ∨ (s.met.req.nmi1 = false ∧ s.met.req.nmi0 = false)) ∧
        (flagOf s.psw .np = true ∨ flagOf s.psw .id = true ∨ s.met.req.int = none))) ∧
    (let s := { machine with psw := 0x80#32, halted := true, req := { nmi1 := true, nmi0 := true, int := some 0x80#16 } }
     s.halted = true ∧ s.met.pendingEvent = none) ∧
    (let s := { machine with halted := true, script := [{ nmi2 := true, defer := true }] }
     s.halted = true ∧ s.input.defer = true ∧ s.input.reset = false ∧ s.met.req.debugTrap = false ∧
       s.met.pendingEvent = some .nmi2) := by decide

/-- With an NMI beside it, in HALT mode, and where an SLD conflict stands at the pc and the environment defers. -/
theorem witness_DebugFunctionTrapIsTakenFirst :
    (∀ s ∈ [{ machine with script := [{ debugTrap := true, nmi2 := true }] },
        { machine with halted := true, script := [{ debugTrap := true }] },
        { machine with
          mem := program [.sldW 0x28#8 10#5] 0x1000, window := [10#5, 28#5]
          script := [{ debugTrap := true, nmi0 := true, defer := true }] }],
      s.input.reset = false ∧ s.met.req.debugTrap = true) := by decide

/-- SLD.W with destination r10 at the pc, just after an instruction that named r10, and NMI0. -/
theorem witness_SLDConflictIsRefused :
    let s := { machine with
      mem := program [.sldW 0x28#8 10#5] 0x1000, window := [10#5, 28#5], script := [{ nmi0 := true }] }
    s.holdsCode (.sldW 0x28#8 10#5) ∧ Instr.shortLoadsTo 10#5 (.sldW 0x28#8 10#5) ∧ 10#5 ∈ s.window ∧
      s.input.reset = false ∧ s.halted = false ∧ s.met.pendingEvent = some .nmi0 := by
  refine ⟨by unfold State.holdsCode; decide, ⟨0#4, 0#5, 0#7, 0x28#8, ?_⟩, by decide⟩
  simp only [List.mem_cons, true_or, or_true]

/-- The source's example, mov r10, r28 at the pc and sld.w 0x28, r10 behind it, and NMI0 (R515). -/
theorem witness_SLDConflictIsRefused_before :
    let s := { machine with
      mem := program [.movReg 10#5 28#5, .sldW 0x28#8 10#5] 0x1000, script := [{ nmi0 := true }] }
    s.holdsCode (.movReg 10#5 28#5) ∧ s.behind.holdsCode (.sldW 0x28#8 10#5) ∧
      Instr.shortLoadsTo 10#5 (.sldW 0x28#8 10#5) ∧ Instr.hazardNames 10#5 (.movReg 10#5 28#5) ∧
      s.input.reset = false ∧ s.halted = false ∧ s.met.pendingEvent = some .nmi0 := by
  refine ⟨by unfold State.holdsCode; decide, by unfold State.holdsCode; decide, ⟨0#4, 0#5, 0#7, 0x28#8, ?_⟩,
    ⟨10#5, 28#5, 0#5, .inl ⟨by decide, .inl rfl⟩⟩, by decide⟩
  simp only [List.mem_cons, true_or, or_true]

theorem test_interrupt_before_list_ii :
    refusal (step { machine with
      mem := program [.movReg 10#5 28#5, .sldW 0x28#8 10#5] 0x1000, script := [{ nmi0 := true }] }) =
      some .sldInterruptConflict := by decide

/-- An SLD to a register not in window behind which anything may stand, and an instruction of list ii with an SLD to
another register behind it. -/
theorem witness_SLDConflictIsRefused_none :
    let s := { machine with mem := program [.sldW 0x28#8 10#5] 0x1000, window := [11#5] }
    let u := { machine with mem := program [.movReg 10#5 28#5, .sldW 0x28#8 11#5] 0x1000 }
    (s.holdsCode (.sldW 0x28#8 10#5) ∧ (∀ r, Instr.shortLoadsTo r (.sldW 0x28#8 10#5) → r ∉ s.window) ∧
      ∀ r, ¬ Instr.hazardNames r (.sldW 0x28#8 10#5)) ∧
    u.holdsCode (.movReg 10#5 28#5) ∧ (∀ r, Instr.shortLoadsTo r (.movReg 10#5 28#5) → r ∉ u.window) ∧
      u.behind.holdsCode (.sldW 0x28#8 11#5) ∧
      ∀ r, Instr.shortLoadsTo r (.sldW 0x28#8 11#5) → ¬ Instr.hazardNames r (.movReg 10#5 28#5) := by
  refine ⟨⟨by unfold State.holdsCode; decide, fun r h => ?_, fun r h => ?_⟩, by unfold State.holdsCode; decide,
    fun r _ => by simp [machine, State.reset], by unfold State.holdsCode; decide, fun r h => ?_⟩
  · simp [Instr.shortLoadsTo] at h; subst h; decide
  · simp [Instr.hazardNames, hazardPairs, hazardImms] at h
  · simp [Instr.shortLoadsTo] at h; subst h
    simp [Instr.hazardNames, hazardPairs, hazardImms]

/-- An instruction of list ii with two registers, one with an immediate, and one that is not of it, each run. -/
theorem witness_SLDConflictIsRefused_window :
    let s (i : Instr) := { machine with mem := program [i] 0x1000, window := [1#5] }
    (∀ i ∈ [Instr.mulhReg 5#5 6#5, .shlImm5 5#5 6#5, .nop],
      (s i).holdsCode i ∧ (s i).executing ∧ nextIs (step (s i)) (fun _ => true)) ∧
    .mulhReg 5#5 6#5 ∈ hazardPairs 5#5 6#5 ∧ .shlImm5 5#5 6#5 ∈ hazardImms 5#5 6#5 ∧
    (∀ reg1 reg2 imm5, Instr.nop ∉ hazardPairs reg1 reg2 ∧ Instr.nop ∉ hazardImms imm5 reg2) := by
  refine ⟨by unfold State.holdsCode State.executing; decide, by decide, by decide, fun _ _ _ => ?_⟩
  simp [hazardPairs, hazardImms]

/-- PREPARE, DISPOSE and LD.W left for an interrupt after one access, and an undefined word left for one. -/
theorem witness_AbandonedInstructionsKeepSP :
    let s (i : Instr) := { machine with mem := program [i] 0x1000, script := [{ nmi0 := true, progress := 1 }] }
    (∀ i ∈ [Instr.prepareSp 0x801#12 1#5, .dispose 0#5 0x801#12, .ldW 0#16 5#5 6#5],
      (s i).interrupted ∧ (s i).holdsCode i ∧ (s i).met.fetch = .instr i (s i).met) ∧
    Instr.prepares 0x801#12 (.prepareSp 0x801#12 1#5) ∧ Instr.disposes 0#5 0x801#12 (.dispose 0#5 0x801#12) ∧
    (∀ imm5 list12, ¬ Instr.prepares list12 (.ldW 0#16 5#5 6#5) ∧ ¬ Instr.disposes imm5 list12 (.ldW 0#16 5#5 6#5)) := by
  refine ⟨by unfold State.interrupted State.sampling State.holdsCode; decide, ⟨1#5, 0#16, 0#32, ?_⟩, .inl rfl,
    fun _ _ => ?_⟩
  · simp only [List.mem_cons, true_or, or_true]
  · simp [Instr.prepares, Instr.disposes]

theorem witness_AbandonedInstructionsKeepSP_no_instruction :
    let s := { machine with mem := placeBytes [0x40#8] 0x1000 [], script := [{ nmi0 := true, progress := 1 }] }
    s.interrupted ∧ s.met.fetch = .refused (.undefinedEncoding .divhReg1Zero) := by
  unfold State.interrupted State.sampling; decide

/-- A DISPOSE of r30 and r31 left for an interrupt after two loads: r31 is loaded, ep as it was or loaded (log 15). -/
theorem test_abandoned_dispose_ep :
    let s (l : Bool) := { machine with
      regs := holding [(3#5, 0x2000#32), (30#5, 9#32)],
      mem := placeBytes [5#8, 0#8, 0#8, 0#8, 1#8] 0x2000 (program [.dispose 0#5 0xC00#12] 0x1000),
      script := [{ nmi0 := true, progress := 2, epLoaded := l }] }
    nextIs (step (s false)) (fun t => t.gpr 31#5 = 5#32 ∧ t.gpr 30#5 = 9#32) ∧
    nextIs (step (s true)) (fun t => t.gpr 31#5 = 5#32 ∧ t.gpr 30#5 = 1#32) := by decide

/-- Both values of `epLoaded` at the DISPOSE of r30 and r31 after two loads. -/
theorem witness_AbandonedInstructionsKeepSP_ep :
    let s (l : Bool) := { machine with
      mem := program [.dispose 0#5 0xC00#12] 0x1000, script := [{ nmi0 := true, progress := 2, epLoaded := l }] }
    (∀ l ∈ [false, true], (s l).interrupted ∧ (s l).met.fetch = .instr (.dispose 0#5 0xC00#12) (s l).met ∧
      (s l).input.epLoaded = l) ∧ (listRegs 0xC00#12).reverse.take 2 = [31#5, 30#5] := by
  unfold State.interrupted State.sampling; decide

/-- The source's pair of R515 at the pc in HALT mode: the interrupt is taken (the model's choice, log 13). -/
theorem test_interrupt_ends_halt_before_list_ii :
    nextIs (step { machine with
      mem := program [.movReg 10#5 28#5, .sldW 0x28#8 10#5] 0x1000, halted := true, script := [{ nmi0 := true }] })
      (fun t => t.pc = 0x10#32 ∧ t.fepc = 0x1000#32 ∧ t.halted = false) := by decide

/-- SAT kept by a saturated operation without overflow, and set by one with it. -/
theorem witness_SATIsCumulative :
    nextIs (exec (.sataddReg 5#5 6#5) { machine with psw := 0x30#32 }) (fun _ => true) ∧
    flagOf ({ machine with psw := 0x30#32 } : State).psw .sat = true ∧
    after (.sataddReg 5#5 6#5) { machine with regs := holding [(5#5, 1#32), (6#5, 0x7FFFFFFF#32)] }
      (fun t => flagOf machine.psw .sat = false ∧ flagOf t.psw .sat = true) ∧
    (Instr.sataddReg 5#5 6#5).replacesPSW = false := by decide

theorem witness_OnlyTheseWriteStatusFlags :
    (∀ i ∈ [Instr.trap 31#5, .ei, .addReg 5#5 6#5],
      after i machine (fun _ => true) ∧ i.replacesPSW = false ∧ i.trapsToDebug = false) ∧
    (∀ v, Instr.ei ≠ .trap v) ∧ (∀ v, Instr.addReg 5#5 6#5 ≠ .trap v) := by
  refine ⟨by decide, ?_, ?_⟩ <;> intro v <;> exact Instr.noConfusion

theorem witness_OnlyTheseWriteECRAndDIR :
    after (.trap 0#5) machine (fun _ => true) ∧ after .halt machine (fun _ => true) ∧
    after .nop machine (fun _ => true) ∧ Instr.trapsToDebug .nop = false := by decide

theorem witness_OnlyStoresChangeMemory :
    after (.addReg 5#5 6#5) machine (fun _ => true) ∧ (Instr.addReg 5#5 6#5).stores = false := by decide

/-- A word stored at an address that is masked; its upper halfword loaded back through ep. -/
theorem witness_LoadsReadTheStoreBeforeThem :
    let s := { machine with regs := holding [(1#5, 0x2003#32), (2#5, 0x89ABCDEF#32), (30#5, 0x2000#32)] }
    s.mem.wf = true ∧ (Instr.stW 2#5 0x4#16 1#5).storeOf s = some (0x2004#32, 4, 0x89ABCDEF#32) ∧
    (List.range 4).all (fun l =>
      s.product.kindAt (s.product.cell (0x2004#32 + BitVec.ofNat 32 l)) = .ram) = true ∧
    0x2006#32 = 0x2004#32 + BitVec.ofNat 32 2 ∧ 2 + 2 ≤ 4 ∧
    nextIs (exec (.stW 2#5 0x4#16 1#5) s) (fun t =>
      (((Instr.sldH 0x6#8 3#5).loadOf t).map fun p => (p.1, p.2.1, p.2.2.1)) = some (0x2006#32, 2, 3#5) ∧
      nextIs (exec (.sldH 0x6#8 3#5) t) (fun u => u.gpr 3#5 = 0xFFFF89AB#32)) := by decide

end Sys2Proof.Tests
end

section
/-! What one instruction can do to the state, said once (`exec_effect`): an ordinary operation, which touches no system
register and none of NP, EP, ID and SAT, a saturated one, or one of the few that write a system register. -/

namespace Sys2Proof.Machine

variable {sat : Bool} {s t : State}

/-! ### Operations that touch no system register -/

/-- What an operation keeps that writes general registers, the pc, memory and the flags of a result: the fixed bits of
r0's cell, the pc, the PSW and memory, every other system register, NP, EP and ID, and, where `sat` is false, SAT. -/
structure Ordinary (sat : Bool) (s t : State) : Prop where
  zero : t.regs[0] = s.regs[0]
  pc : pcMask s.pc = s.pc → pcMask t.pc = t.pc
  eipc : t.eipc = s.eipc
  eipsw : t.eipsw = s.eipsw
  fepc : t.fepc = s.fepc
  fepsw : t.fepsw = s.fepsw
  ecr : t.ecr = s.ecr
  ctpc : t.ctpc = s.ctpc
  ctpsw : t.ctpsw = s.ctpsw
  dbpc : t.dbpc = s.dbpc
  dbpsw : t.dbpsw = s.dbpsw
  ctbp : t.ctbp = s.ctbp
  dir : t.dir = s.dir
  np : flagOf t.psw .np = flagOf s.psw .np
  ep : flagOf t.psw .ep = flagOf s.psw .ep
  id : flagOf t.psw .id = flagOf s.psw .id
  keepsSAT : sat = false → flagOf t.psw .sat = flagOf s.psw .sat
  reserved : ∀ k, 8 ≤ k → t.psw.getLsbD k = s.psw.getLsbD k
  mem : s.mem.wf = true → t.mem.wf = true
  halted : t.halted = s.halted
  product : t.product = s.product
  req : t.req = s.req
  script : t.script = s.script

theorem Ordinary.refl (sat : Bool) (s : State) : Ordinary sat s s :=
  ⟨rfl, fun h => h, rfl, rfl, rfl, rfl, rfl, rfl, rfl, rfl, rfl, rfl, rfl, rfl, rfl, rfl, fun _ => rfl,
    fun _ _ => rfl, fun h => h, rfl, rfl, rfl, rfl⟩

/-- The cell of r0 is never written (spec/10_state.md R31). -/
theorem writeReg_cell_zero (regs : Vector Word 32) (r : Reg) (v : Word) : (writeReg regs r v)[0] = regs[0] := by
  by_cases hr : r = 0#5
  · simp [writeReg, hr]
  · have hn : r.toNat ≠ 0 := fun e => hr (BitVec.eq_of_toNat_eq e)
    simp [writeReg, hr, hn]

theorem pcMask_pcMask (v : Word) : pcMask (pcMask v) = pcMask v := by simp [pcMask, BitVec.and_assoc]

theorem Ordinary.setReg (h : Ordinary sat s t) (r : Reg) (v : Word) : Ordinary sat s (t.setReg r v) :=
  { h with zero := (writeReg_cell_zero t.regs r v).trans h.zero }

theorem Ordinary.afterRead (h : Ordinary sat s t) (n : Nat) (a : Word) : Ordinary sat s (t.afterRead n a) :=
  { h with }

theorem Ordinary.useDraws (h : Ordinary sat s t) (n : Nat) : Ordinary sat s { t with draws := n } :=
  { h with }

theorem Ordinary.advance (h : Ordinary sat s t) (len : Word) : Ordinary sat s (t.advance len) :=
  { h with pc := fun _ => pcMask_pcMask _ }

theorem Ordinary.jump (h : Ordinary sat s t) (target : Word) : Ordinary sat s (t.jump target) :=
  { h with pc := fun _ => pcMask_pcMask _ }

theorem Ordinary.setFlags (h : Ordinary sat s t) {w : FlagWrite} (hw : sat = false → w.sat = none) :
    Ordinary sat s (t.setFlags w) :=
  { h with
    np := (flagOf_apply w t.psw .np).trans h.np
    ep := (flagOf_apply w t.psw .ep).trans h.ep
    id := (flagOf_apply w t.psw .id).trans h.id
    keepsSAT := fun hs => by
      rw [State.setFlags_psw, flagOf_apply, FlagWrite.get, hw hs, Option.getD_none, h.keepsSAT hs]
    reserved := fun k hk => (getLsbD_apply w t.psw hk).trans (h.reserved k hk) }

theorem Ordinary.writeByte (h : Ordinary sat s t) (a : Word) (v : Byte) : Ordinary sat s (t.writeByte a v) :=
  { h with mem := fun hs => State.wf_writeByte t (h.mem hs) a v }

theorem Ordinary.storeHalf (h : Ordinary sat s t) (a : Word) (v : Half) : Ordinary sat s (t.storeHalf a v) :=
  (h.writeByte _ _).writeByte _ _

theorem Ordinary.storeWord (h : Ordinary sat s t) (a v : Word) : Ordinary sat s (t.storeWord a v) :=
  (((h.writeByte _ _).writeByte _ _).writeByte _ _).writeByte _ _

theorem Ordinary.pushList (h : Ordinary sat s t) (l : List Reg) (a : Word) : Ordinary sat s (t.pushList l a) := by
  induction l generalizing t a with
  | nil => exact h
  | cons r l ih => exact ih (h.storeWord _ _) _

theorem Ordinary.popList (h : Ordinary sat s t) (l : List Reg) (a : Word) : Ordinary sat s (t.popList l a) := by
  induction l generalizing t a with
  | nil => exact h
  | cons r l ih => exact ih ((h.afterRead _ _).setReg _ _) _

theorem Ordinary.prepareFrame (h : Ordinary sat s t) (list12 : BitVec 12) (imm5 : BitVec 5) :
    Ordinary sat s (t.prepareFrame list12 imm5) :=
  (h.pushList _ _).setReg _ _

theorem Ordinary.disposeFrame (h : Ordinary sat s t) (imm5 : BitVec 5) (list12 : BitVec 12) :
    Ordinary sat s (t.disposeFrame imm5 list12) :=
  (h.popList _ _).setReg _ _

theorem Ordinary.writeProduct (h : Ordinary sat s t) (reg2 reg3 : Reg) (p : BitVec 64) :
    Ordinary sat s (t.writeProduct reg2 reg3 p) :=
  (h.setReg _ _).setReg _ _

theorem Ordinary.writeResult (h : Ordinary sat s t) (r : Reg) (v : Word) {w : FlagWrite}
    (hw : sat = false → w.sat = none) : Ordinary sat s (t.writeResult r v w) :=
  (h.setReg r v).setFlags hw

theorem Ordinary.testBit (h : Ordinary sat s t) (a : Word) (n : Nat) : Ordinary sat s (t.testBit a n) :=
  (h.afterRead 1 a).setFlags fun _ => rfl

theorem Ordinary.modifyBit (h : Ordinary sat s t) (a : Word) (n : Nat) (new : Bool → Bool) :
    Ordinary sat s (t.modifyBit a n new) :=
  (h.testBit a n).writeByte _ _

/-- No division says anything of SAT (spec/42_arithmetic.md R250). -/
theorem divideSigned_sat (draws : Nat) (a b : Word) : (divideSigned draws a b).flags.sat = none := by
  unfold divideSigned
  split
  · rfl
  · split <;> rfl

theorem divideUnsigned_sat (draws : Nat) (a b : Word) : (divideUnsigned draws a b).flags.sat = none := by
  unfold divideUnsigned
  split <;> rfl

theorem Ordinary.writeQuotient (h : Ordinary sat s t) (reg2 : Reg) {d : Division} (hd : d.flags.sat = none) :
    Ordinary sat s (t.writeQuotient reg2 d) :=
  ((h.useDraws _).setFlags fun _ => hd).setReg _ _

theorem Ordinary.writeDivision (h : Ordinary sat s t) (reg2 reg3 : Reg) {d : Division} (hd : d.flags.sat = none) :
    Ordinary sat s (t.writeDivision reg2 reg3 d) :=
  (h.writeQuotient reg2 hd).setReg _ _

/-! ### What an instruction can do -/

/-- The next states an instruction can answer: an ordinary operation, a saturated one, or one of those that write a
system register, NP, EP, ID or HALT mode, each with what it writes. -/
inductive Effect (s : State) : Instr → State → Prop where
  | ordinary {i : Instr} {t : State} (h : Ordinary false s t) : Effect s i t
  | saturated {i : Instr} {t : State} (hi : i.saturated = true) (h : Ordinary true s t)
      (hs : flagOf t.psw .sat = (flagOf s.psw .sat || flagOf t.psw .ov)) : Effect s i t
  | callt (imm6 : BitVec 6) (target : Word) (draws : Nat) :
      Effect s (.callt imm6)
        (({ s with ctpc := s.nextPC 2#32, ctpsw := s.psw, draws := draws } : State).jump target)
  | ctret : Effect s .ctret (s.returnTo s.ctpc s.ctpsw)
  | di : Effect s .di (({ s with psw := withFlag .id true s.psw } : State).advance 4#32)
  | ei : Effect s .ei (({ s with psw := withFlag .id false s.psw } : State).advance 4#32)
  | halt : Effect s .halt (({ s with halted := true } : State).advance 4#32)
  | ldsr (reg2 : Reg) (regID : BitVec 5) {u : State} (h : s.setSysReg regID (s.gpr reg2) = some u) :
      Effect s (.ldsr reg2 regID) (u.advance 4#32)
  | retiEI : Effect s .reti (s.returnTo s.eipc s.eipsw)
  | retiFE : Effect s .reti (s.returnTo s.fepc s.fepsw)
  | trap (vector : BitVec 5) : Effect s (.trap vector) (s.takeException (s.trapEntry vector))
  | dbret : Effect s .dbret (({ s with dir := withDM false s.dir } : State).returnTo s.dbpc s.dbpsw)
  | debugTrap {i : Instr} (h : i.trapsToDebug = true) (len : Word) :
      Effect s i (s.takeException (debugEntry (s.nextPC len)))

/-- An answer that is this next state, and no other. -/
theorem of_next {p : State → Prop} {u : State} {r : Result} (h : r = .next t) (e : r = .next u) (hu : p u) : p t := by
  rw [e] at h
  cases h
  exact hu

/-- A saturated operation sets SAT where it sets OV, and else leaves it (spec/43_saturated.md R270, R271). -/
theorem Effect.of_saturated {i : Instr} (hi : i.saturated = true) (r : Reg) (cy : Bool) (o : Word × Bool)
    (len : Word) : Effect s i ((s.writeResult r o.1 (saturatedFlags cy o)).advance len) := by
  refine .saturated hi (((Ordinary.refl _ s).writeResult _ _ fun e => by cases e).advance _) ?_
  rw [flagOf_writeResult, flagOf_writeResult]
  cases ho : o.2 <;> simp [FlagWrite.get, saturatedFlags, ho]

/-- Every answer of `exec` is one of these. -/
theorem exec_effect {i : Instr} (h : exec i s = .next t) : Effect s i t := by
  have start := Ordinary.refl false s
  cases i with
  | movReg | movImm5 | movea | movhi | mulhReg | mulhImm5 | sxb | sxh | zxb | zxh | movImm32 | mulhi | cmovReg
  | cmovImm5 | sasf | setf => exact of_next h rfl (.ordinary ((start.setReg _ _).advance _))
  | addReg | addImm5 | addi | sub | subr | andReg | andi | bsh | bsw | hsw | notReg | orReg | ori | sarReg | sarImm5
  | shlReg | shlImm5 | shrReg | shrImm5 | xorReg | xori =>
    exact of_next h rfl (.ordinary ((start.writeResult _ _ fun _ => rfl).advance _))
  | sataddReg | sataddImm5 | satsub | satsubi | satsubr =>
    exact of_next h rfl (.of_saturated rfl _ _ _ _)
  | cmpReg | cmpImm5 | tst => exact of_next h rfl (.ordinary ((start.setFlags fun _ => rfl).advance _))
  | ldB | ldBu | ldH | ldHu | ldW | sldB | sldBu | sldH | sldHu | sldW =>
    exact of_next h rfl (.ordinary (((start.afterRead _ _).setReg _ _).advance _))
  | sstB | stB => exact of_next h rfl (.ordinary ((start.writeByte _ _).advance _))
  | sstH | stH => exact of_next h rfl (.ordinary ((start.storeHalf _ _).advance _))
  | sstW | stW => exact of_next h rfl (.ordinary ((start.storeWord _ _).advance _))
  | mulImm9 | muluImm9 => exact of_next h rfl (.ordinary ((start.writeProduct _ _ _).advance _))
  | mulReg reg1 reg2 reg3 | muluReg reg1 reg2 reg3 =>
    cases hp : prohibitedProduct reg1 reg2 reg3 with
    | false => exact of_next h (if_neg (by simp [hp])) (.ordinary ((start.writeProduct _ _ _).advance _))
    | true => cases (if_pos hp).symm.trans h
  | div | divhReg3 =>
    exact of_next h rfl (.ordinary ((start.writeDivision _ _ (divideSigned_sat _ _ _)).advance _))
  | divhu | divu =>
    exact of_next h rfl (.ordinary ((start.writeDivision _ _ (divideUnsigned_sat _ _ _)).advance _))
  | divhReg2 => exact of_next h rfl (.ordinary ((start.writeQuotient _ (divideSigned_sat _ _ _)).advance _))
  | set1Disp | set1Reg | not1Disp | not1Reg | clr1Disp | clr1Reg =>
    exact of_next h rfl (.ordinary ((start.modifyBit _ _ _).advance _))
  | tst1Disp | tst1Reg => exact of_next h rfl (.ordinary ((start.testBit _ _).advance _))
  | nop => exact of_next h rfl (.ordinary (start.advance _))
  | bcond cccc disp9 =>
    by_cases hc : s.cond cccc = true
    · exact of_next h (if_pos hc) (.ordinary (start.jump _))
    · exact of_next h (if_neg hc) (.ordinary (start.advance _))
  | jarl => exact of_next h rfl (.ordinary ((start.setReg _ _).jump _))
  | jmp | jr => exact of_next h rfl (.ordinary (start.jump _))
  | switch => exact of_next h rfl (.ordinary ((start.afterRead _ _).jump _))
  | prepare => exact of_next h rfl (.ordinary ((start.prepareFrame _ _).advance _))
  | prepareSp | prepareImm16 | prepareImm16Hi | prepareImm32 =>
    exact of_next h rfl (.ordinary (((start.prepareFrame _ _).setReg _ _).advance _))
  | dispose => exact of_next h rfl (.ordinary ((start.disposeFrame _ _).advance _))
  | disposeJump => exact of_next h rfl (.ordinary ((start.disposeFrame _ _).jump _))
  | stsr regID reg2 =>
    rcases hv : s.sysReg regID with _ | v <;> simp only [exec, execStsr, hv] at h <;> cases h
    exact .ordinary ((start.setReg _ _).advance _)
  | ldsr reg2 regID =>
    rcases hu : s.setSysReg regID (s.gpr reg2) with _ | u <;> simp only [exec, execLdsr, hu] at h <;> cases h
    exact .ldsr reg2 regID hu
  | reti =>
    by_cases he : flagOf s.psw .ep = true
    · exact of_next h (if_pos he) .retiEI
    by_cases hn : flagOf s.psw .np = true
    · cases hf : s.fromFinalNMI with
      | false => exact of_next h (by simp [exec, execReti, he, hn, hf]) .retiFE
      | true => simp [exec, execReti, he, hn, hf] at h
    · exact of_next h (by simp [exec, execReti, he, hn]) .retiEI
  | callt imm6 => exact of_next h rfl (.callt imm6 _ _)
  | ctret => exact of_next h rfl .ctret
  | di => exact of_next h rfl .di
  | ei => exact of_next h rfl .ei
  | halt => exact of_next h rfl .halt
  | trap vector => exact of_next h rfl (.trap vector)
  | dbret => exact of_next h rfl .dbret
  | dbtrap | illegalHigh | illegalSeven => exact of_next h rfl (.debugTrap rfl _)

end Sys2Proof.Machine
end

section
/-! The invariant of the state: every operation keeps it, so a boundary and an executed instruction do, and every step
does (O8); the state after reset meets it (O9). -/

namespace Sys2Proof.Machine

variable {sat : Bool} {s t : State}

/-! ### Operations keep the invariant (spec/10_state.md R31 to R56) -/

theorem savedPCBits_savedPCBits (v : Word) : savedPCBits (savedPCBits v) = savedPCBits v := by
  simp [savedPCBits, BitVec.and_assoc]

theorem savedPCBits_pcMask (v : Word) : savedPCBits (pcMask v) = pcMask v := by
  simp [savedPCBits, pcMask, BitVec.and_assoc]

theorem pswBits_pswBits (v : Word) : pswBits (pswBits v) = pswBits v := by simp [pswBits, BitVec.and_assoc]

theorem ctbpBits_ctbpBits (v : Word) : ctbpBits (ctbpBits v) = ctbpBits v := by simp [ctbpBits, BitVec.and_assoc]

/-- Writing DM keeps bits 31..1 of DIR 0 (spec/10_state.md R56). -/
theorem withDM_and_one (b : Bool) {dir : Word} (h : dir &&& 1#32 = dir) : withDM b dir &&& 1#32 = withDM b dir := by
  rw [← h]
  apply BitVec.eq_of_getLsbD_eq
  intro k _
  cases b <;> simp [withDM] <;> grind

/-- A pc that meets the invariant has the fixed bits of a saved PC. -/
theorem State.Inv.savedPC (h : s.Inv) : savedPCBits s.pc = s.pc := by rw [← h.pc, savedPCBits_pcMask]

theorem Ordinary.inv (h : Ordinary sat s t) (hs : s.Inv) : t.Inv where
  zero := h.zero.trans hs.zero
  pc := h.pc hs.pc
  eipc := by rw [h.eipc, hs.eipc]
  fepc := by rw [h.fepc, hs.fepc]
  ctpc := by rw [h.ctpc, hs.ctpc]
  dbpc := by rw [h.dbpc, hs.dbpc]
  psw := pswBits_of_reserved h.reserved hs.psw
  eipsw := by rw [h.eipsw, hs.eipsw]
  fepsw := by rw [h.fepsw, hs.fepsw]
  ctpsw := by rw [h.ctpsw, hs.ctpsw]
  dbpsw := by rw [h.dbpsw, hs.dbpsw]
  ctbp := by rw [h.ctbp, hs.ctbp]
  dir := by rw [h.dir, hs.dir]
  mem := h.mem hs.mem

theorem State.Inv.advance (h : s.Inv) (len : Word) : (s.advance len).Inv := ((Ordinary.refl true s).advance len).inv h

theorem State.Inv.jump (h : s.Inv) (target : Word) : (s.jump target).Inv := ((Ordinary.refl true s).jump target).inv h

/-- The invariant does not look at HALT mode, the environment or the model's own records. -/
theorem State.Inv.withRecords (h : s.Inv) (halted : Bool) (req : Requests) (script : List Boundary) (draws : Nat)
    (window : List Reg) :
    ({ s with halted := halted, req := req, script := script, draws := draws, window := window } : State).Inv :=
  { h with }

theorem State.Inv.withFlag (h : s.Inv) (f : Flag) (b : Bool) : ({ s with psw := withFlag f b s.psw } : State).Inv :=
  { h with psw := pswBits_of_reserved (fun _ hk => getLsbD_withFlag f b s.psw hk) h.psw }

theorem State.Inv.returnTo (h : s.Inv) (pc psw : Word) : (s.returnTo pc psw).Inv :=
  State.Inv.jump (s := { s with psw := pswBits psw }) { h with psw := pswBits_pswBits psw } pc

/-- LDSR writes only writable bits (spec/10_state.md R57). -/
theorem State.Inv.setSysReg (h : s.Inv) {regID : BitVec 5} {v : Word} (ht : s.setSysReg regID v = some t) :
    t.Inv := by
  unfold State.setSysReg at ht
  split at ht <;> cases ht
  · exact { h with eipc := savedPCBits_savedPCBits v }
  · exact { h with eipsw := pswBits_pswBits v }
  · exact { h with fepc := savedPCBits_savedPCBits v }
  · exact { h with fepsw := pswBits_pswBits v }
  · exact { h with psw := pswBits_pswBits v }
  · exact { h with ctpc := savedPCBits_savedPCBits v }
  · exact { h with ctpsw := pswBits_pswBits v }
  · exact { h with dbpc := savedPCBits_savedPCBits v }
  · exact { h with dbpsw := pswBits_pswBits v }
  · exact { h with ctbp := ctbpBits_ctbpBits v }

/-- Either choice of two values that a mask leaves alone is one. -/
theorem fixed_ite {f : Word → Word} {p : Prop} [Decidable p] {a b : Word} (ha : f a = a) (hb : f b = b) :
    f (if p then a else b) = if p then a else b := by
  split <;> assumption

/-- An entry keeps the invariant where the pc it saves has the fixed bits of a saved PC. -/
theorem State.Inv.takeException (h : s.Inv) {e : Entry} (he : savedPCBits e.restorePC = e.restorePC) :
    (s.takeException e).Inv :=
  { h with
    pc := pcMask_pcMask e.handler
    eipc := fixed_ite he h.eipc
    eipsw := fixed_ite h.psw h.eipsw
    fepc := fixed_ite he h.fepc
    fepsw := fixed_ite h.psw h.fepsw
    dbpc := fixed_ite he h.dbpc
    dbpsw := fixed_ite h.psw h.dbpsw
    dir := fixed_ite (f := (· &&& 1#32)) (withDM_and_one true h.dir) h.dir
    psw := pswBits_of_reserved (fun _ hk => getLsbD_enterPSW e.setsNP e.ep s.psw hk) h.psw }

/-- Executing an instruction keeps the invariant. -/
theorem Effect.inv {i : Instr} (h : Effect s i t) (hs : s.Inv) : t.Inv := by
  cases h with
  | ordinary h | saturated _ h => exact h.inv hs
  | callt imm6 target draws =>
    exact State.Inv.jump (s := { s with ctpc := s.nextPC 2#32, ctpsw := s.psw, draws := draws })
      { hs with ctpc := savedPCBits_pcMask _, ctpsw := hs.psw } target
  | ctret | retiEI | retiFE => exact hs.returnTo _ _
  | di | ei => exact (hs.withFlag .id _).advance _
  | halt => exact (hs.withRecords true _ _ _ _).advance _
  | ldsr _ _ h => exact (hs.setSysReg h).advance _
  | trap | debugTrap => exact hs.takeException (savedPCBits_pcMask _)
  | dbret =>
    exact State.Inv.returnTo (s := { s with dir := withDM false s.dir })
      { hs with dir := withDM_and_one false hs.dir } _ _

/-! ### The step keeps the invariant -/

theorem Ordinary.settleEP (h : Ordinary sat s t) (loaded : Bool) (ep : Word) :
    Ordinary sat s (t.settleEP loaded ep) := by
  cases loaded
  · exact h.setReg regEP ep
  · exact h

/-- An instruction that an interrupt abandons has done nothing but ordinary accesses (spec/20_memory.md R94, R95). -/
theorem ordinary_abandon (b : Boundary) (s : State) : Ordinary false s (s.abandon b) := by
  have start := Ordinary.refl false s
  unfold State.abandon
  split
  · exact start
  split
  next i u hf =>
    obtain ⟨d, rfl⟩ := State.fetch_eq hf
    have fetched := start.useDraws d
    cases i with
    | prepare | prepareSp | prepareImm16 | prepareImm16Hi | prepareImm32 => exact fetched.pushList _ _
    | dispose | disposeJump => exact (fetched.popList _ _).settleEP _ _
    | sldB | sldBu | sldH | sldHu | sldW | callt => exact fetched.afterRead _ _
    | _ => exact start
  · exact start

/-- The pc an event saves is the pc (spec/60_exceptions.md R403, R438). -/
theorem State.eventEntry_restorePC (s : State) (e : Event) : (s.eventEntry e).restorePC = s.pc := by cases e <;> rfl

theorem State.Inv.enter (h : s.Inv) (e : Event) (b : Boundary) : (s.enter e b).Inv :=
  (((ordinary_abandon b s).inv h).takeException (by rw [State.eventEntry_restorePC, h.savedPC])).withRecords _ _ _ _ _

theorem State.reset_inv : State.reset.Inv := by constructor <;> rfl

theorem State.resetEntry_inv (h : s.mem.wf = true) : s.resetEntry.Inv :=
  { State.reset_inv with mem := h }

/-- What a boundary makes of a state that meets the invariant, whether the step ends there or runs an instruction. -/
def Action.Keeps : Action → Prop
  | .become t | .run t => t.Inv
  | .refuse _ => True

theorem State.Inv.proceed (h : s.Inv) : s.proceed.Keeps := by
  unfold State.proceed
  split <;> exact h

theorem State.Inv.react (h : s.Inv) (b : Boundary) : (s.react b).Keeps := by
  unfold State.react
  split
  · apply State.resetEntry_inv
    split
    · exact h.mem
    · exact State.wf_cutShort s h.mem b.cut
  split
  · exact h.proceed
  · exact h.enter _ _
  · split
    · trivial
    · split
      · exact h.proceed
      · exact h.enter _ _

theorem State.Inv.boundary (h : s.Inv) : s.boundary.Keeps :=
  State.Inv.react (h.withRecords _ _ _ _ _) _

/-- An instruction that runs to a next state: it was fetched, it was executed, and the window of R515 was set. -/
theorem State.runInstr_eq_next (h : s.runInstr = .next t) :
    ∃ i d u, exec i { s with draws := d } = .next u ∧ t = { u with window := windowRegs i } := by
  unfold State.runInstr at h
  split at h
  next i v hf =>
    obtain ⟨d, rfl⟩ := State.fetch_eq hf
    cases he : exec i { s with draws := d } with
    | next u =>
      rw [he] at h
      cases h
      exact ⟨i, d, u, he, rfl⟩
    | fault | refused => rw [he] at h; cases h
  · cases h
  · cases h

theorem State.Inv.runInstr (h : s.Inv) (ht : s.runInstr = .next t) : t.Inv := by
  obtain ⟨i, d, u, he, rfl⟩ := State.runInstr_eq_next ht
  exact ((exec_effect he).inv (h.withRecords _ _ _ d _)).withRecords _ _ _ _ _

/-- Settles O8: a boundary and an executed instruction each keep the invariant. -/
theorem stepKeepsInvariant : Obligations.StepKeepsInvariant := by
  intro s t hs h
  have hb := hs.boundary
  unfold step at h
  split at h
  next u hu => cases h; rwa [hu] at hb
  next u hu => rw [hu] at hb; exact State.Inv.runInstr hb h
  · cases h

/-- Settles O9. -/
theorem resetMeetsInvariant : Obligations.ResetMeetsInvariant := State.reset_inv

end Sys2Proof.Machine
end

section
/-! What writes SAT, NP, EP and ID (O56, O57), ECR, DIR and HALT mode (O58), read off from the effects an instruction can
have, and the system registers that may not be named (O44). -/

namespace Sys2Proof.Machine

variable {s t : State}

/-! ### What writes NP, EP, ID and SAT (spec/10_state.md R46 to R49, spec/43_saturated.md R271) -/

/-- LDSR to another register than the PSW leaves the PSW. -/
theorem setSysReg_psw {regID : BitVec 5} {v : Word} (h : s.setSysReg regID v = some t) (hn : regID ≠ 5#5) :
    t.psw = s.psw := by
  have h5 : regID.toNat ≠ 5 := fun e => hn (BitVec.eq_of_toNat_eq e)
  unfold State.setSysReg at h
  split at h <;> cases h <;> first | rfl | contradiction

/-- LDSR writes neither ECR nor DIR nor anything outside the core. -/
theorem setSysReg_frame {regID : BitVec 5} {v : Word} (h : s.setSysReg regID v = some t) :
    t.ecr = s.ecr ∧ t.dir = s.dir ∧ t.halted = s.halted ∧ t.product = s.product ∧ t.req = s.req ∧
      t.script = s.script := by
  unfold State.setSysReg at h
  split at h <;> cases h <;> exact ⟨rfl, rfl, rfl, rfl, rfl, rfl⟩

/-- LDSR replaces the PSW only by its number. -/
theorem ne_five_of_not_replacesPSW {reg2 : Reg} {regID : BitVec 5} (h : (Instr.ldsr reg2 regID).replacesPSW = false) :
    regID ≠ 5#5 := by
  rintro rfl
  cases h

/-- Settles O56: an ordinary operation keeps SAT, a saturated one sets it with OV, an entry, EI and DI write other
flags. -/
theorem satIsCumulative : Obligations.SATIsCumulative := by
  intro i s t h hi
  have kept : flagOf t.psw .sat = flagOf s.psw .sat →
      (flagOf s.psw .sat = true → flagOf t.psw .sat = true) ∧
      (flagOf s.psw .sat = false → flagOf t.psw .sat = true → i.saturated = true ∧ flagOf t.psw .ov = true) :=
    fun e => ⟨fun hs => e.trans hs, fun hs ht => absurd (e.symm.trans ht) (by simp [hs])⟩
  cases exec_effect h with
  | ordinary h => exact kept (h.keepsSAT rfl)
  | saturated hsat _ hs =>
    rw [hs]
    exact ⟨fun e => by simp [e], fun e ht => ⟨hsat, by simpa [e] using ht⟩⟩
  | callt | halt => exact kept rfl
  | di | ei => exact kept (flagOf_withFlag .id .sat _ s.psw)
  | ldsr _ _ hu =>
    have hpsw := setSysReg_psw hu (ne_five_of_not_replacesPSW hi)
    exact kept (congrArg (flagOf · .sat) hpsw)
  | trap | debugTrap => exact kept (flagOf_enterPSW _ _ s.psw .sat)
  | ctret | retiEI | retiFE | dbret => cases hi

/-- Settles O57: EI and DI write ID, TRAP writes EP and ID but not NP, everything else left keeps all three. -/
theorem onlyTheseWriteStatusFlags : Obligations.OnlyTheseWriteStatusFlags := by
  intro i s t h hi hd
  cases exec_effect h with
  | ordinary ho | saturated _ ho => exact ⟨ho.np, fun _ => ⟨ho.ep, fun _ _ => ho.id⟩⟩
  | callt | halt => exact ⟨rfl, fun _ => ⟨rfl, fun _ _ => rfl⟩⟩
  | di =>
    exact ⟨flagOf_withFlag .id .np _ s.psw, fun _ => ⟨flagOf_withFlag .id .ep _ s.psw, fun _ hne => absurd rfl hne⟩⟩
  | ei =>
    exact ⟨flagOf_withFlag .id .np _ s.psw, fun _ => ⟨flagOf_withFlag .id .ep _ s.psw, fun hne _ => absurd rfl hne⟩⟩
  | ldsr _ _ hu =>
    have hpsw := setSysReg_psw hu (ne_five_of_not_replacesPSW hi)
    have same : ∀ f, flagOf _ f = flagOf s.psw f := fun f => congrArg (flagOf · f) hpsw
    exact ⟨same .np, fun _ => ⟨same .ep, fun _ _ => same .id⟩⟩
  | trap v => exact ⟨flagOf_enterPSW false true s.psw .np, fun hne => absurd rfl (hne v)⟩
  | debugTrap ht => cases ht.symm.trans hd
  | ctret | retiEI | retiFE | dbret => cases hi

/-- A cause code of an EI-level event leaves FECC (spec/10_state.md R45). -/
theorem fecc_writeCause_eicc (code : Half) (ecr : Word) :
    (writeCause (.eicc code) ecr).extractLsb' 16 16 = ecr.extractLsb' 16 16 := by
  rw [writeCause, extract_append_high _ _ _ _ (by decide)]
  simp

/-- Settles O58: TRAP writes EICC, an entry at 60h and DBRET write DIR, HALT sets HALT mode, everything else keeps
them all. -/
theorem onlyTheseWriteECRAndDIR : Obligations.OnlyTheseWriteECRAndDIR := by
  intro i s t h
  cases exec_effect h with
  | ordinary ho | saturated _ ho =>
    exact ⟨congrArg _ ho.ecr, fun _ => ho.ecr, fun _ _ => ho.dir, ho.product, ho.req, ho.script, fun _ => ho.halted⟩
  | callt | ctret | di | ei | retiEI | retiFE =>
    exact ⟨rfl, fun _ => rfl, fun _ _ => rfl, rfl, rfl, rfl, fun _ => rfl⟩
  | halt => exact ⟨rfl, fun _ => rfl, fun _ _ => rfl, rfl, rfl, rfl, fun hne => absurd rfl hne⟩
  | ldsr _ _ hu =>
    obtain ⟨hecr, hdir, hhalted, hproduct, hreq, hscript⟩ := setSysReg_frame hu
    exact ⟨congrArg _ hecr, fun _ => hecr, fun _ _ => hdir, hproduct, hreq, hscript, fun _ => hhalted⟩
  | trap v =>
    exact ⟨fecc_writeCause_eicc _ s.ecr, fun hne => absurd rfl (hne v), fun _ _ => rfl, rfl, rfl, rfl, fun _ => rfl⟩
  | dbret => exact ⟨rfl, fun _ => rfl, fun _ hne => absurd rfl hne, rfl, rfl, rfl, fun _ => rfl⟩
  | debugTrap ht =>
    exact ⟨rfl, fun _ => rfl, fun hf => (Bool.false_ne_true (hf.symm.trans ht)).elim, rfl, rfl, rfl, fun _ => rfl⟩

/-! ### Refused system registers -/

/-- A number under which LDSR finds no register (spec/10_state.md R57). -/
theorem setSysReg_eq_none (s : State) {n : BitVec 5} (v : Word)
    (h : ((6 ≤ n.toNat ∧ n.toNat ≤ 15) ∨ 22 ≤ n.toNat) ∨ n = 4#5 ∨ n = 21#5) : s.setSysReg n v = none := by
  have hn : (6 ≤ n.toNat ∧ n.toNat ≤ 15) ∨ 22 ≤ n.toNat ∨ n.toNat = 4 ∨ n.toNat = 21 := by
    rcases h with h | rfl | rfl
    · omega
    · decide
    · decide
  unfold State.setSysReg
  split <;> first | rfl | omega

/-- A number under which STSR finds no register (spec/10_state.md R57). -/
theorem sysReg_eq_none (s : State) {n : BitVec 5} (h : (6 ≤ n.toNat ∧ n.toNat ≤ 15) ∨ 22 ≤ n.toNat) :
    s.sysReg n = none := by
  unfold State.sysReg
  split <;> first | rfl | omega

/-- Settles O44: neither instruction finds a register under such a number. -/
theorem reservedSystemRegistersAreRefused : Obligations.ReservedSystemRegistersAreRefused := by
  intro s n reg2 reserved
  constructor
  · intro h
    simp only [exec, execLdsr, setSysReg_eq_none s _ h]
  · intro h
    simp only [exec, execStsr, sysReg_eq_none s h]

end Sys2Proof.Machine
end

section
/-! Decoding what was encoded (spec/30_encoding.md R120 to R165), and the step that runs the instruction at
the pc (O6). -/

namespace Sys2Proof

/-! ### Formats as extensions of one another -/

theorem fmtXIImul_eq (r3 : Reg) (high : BitVec 4) (sub : BitVec 2) :
    fmtXIImul r3 high sub = fmtXI r3 (0b01001#5 ++ high ++ sub) := by
  simp only [fmtXIImul, fmtXI, BitVec.append_assoc, BitVec.cast_eq]

theorem fmtXIIcmov_eq (r3 : Reg) (sub : BitVec 6) (cond : BitVec 4) :
    fmtXIIcmov r3 sub cond = fmtXI r3 (sub ++ cond ++ 0#1) := by
  simp only [fmtXIIcmov, fmtXI, BitVec.append_assoc, BitVec.cast_eq]

theorem illegalHighHalf_eq (a : BitVec 5) (b : BitVec 3) (c : BitVec 6) :
    illegalHighHalf a b c = fmtXI a (1#1 ++ b ++ c ++ 0#1) := by
  simp only [illegalHighHalf, fmtXI, BitVec.append_assoc, BitVec.cast_eq]

theorem illegalSevenHalf_eq (a : BitVec 5) (c : BitVec 6) :
    illegalSevenHalf a c = fmtXI a (0b0111#4 ++ c ++ 0#1) := by
  simp only [illegalSevenHalf, fmtXI, BitVec.append_assoc, BitVec.cast_eq]

/-- The first halfword of PREPARE is of format V with r0. -/
theorem fmtXIIIlow_prepare (imm5 : BitVec 5) (l : BitVec 12) :
    fmtXIIIlow 0b11110#5 imm5 l = fmtV 0#5 (imm5 ++ l.extractLsb' 10 1) := by
  simp only [fmtXIIIlow, fmtV, BitVec.append_assoc, BitVec.cast_eq]

theorem rowOf_fmtXIIIlow (op imm5 : BitVec 5) (l : BitVec 12) :
    rowOf (fmtXIIIlow op imm5 l) = op.extractLsb' 1 4 := by
  unfold rowOf fmtXIIIlow
  rw [extract_append_high _ _ _ _ (by decide), extract_append_high _ _ _ _ (by decide),
    extract_append_low _ _ _ _ (by decide)]

theorem reg2Of_fmtXIIIlow (op imm5 : BitVec 5) (l : BitVec 12) : reg2Of (fmtXIIIlow op imm5 l) = 0#5 := by
  unfold reg2Of fmtXIIIlow
  rw [extract_append_high _ _ _ _ (by decide), extract_append_high _ _ _ _ (by decide),
    extract_append_high _ _ _ _ (by decide)]
  rfl

theorem stackImmOf_fmtXIIIlow (op imm5 : BitVec 5) (l : BitVec 12) : stackImmOf (fmtXIIIlow op imm5 l) = imm5 := by
  unfold stackImmOf fmtXIIIlow
  rw [extract_append_high _ _ _ _ (by decide), extract_append_low _ _ _ _ (by decide)]
  simp

/-- The top bit of imm5 is the low bit of the column, so DISPOSE has two of them. -/
theorem colOf_bit1_fmtXIIIlow (op imm5 : BitVec 5) (l : BitVec 12) :
    (colOf (fmtXIIIlow op imm5 l)).getLsbD 1 = op.getLsbD 0 := by
  unfold colOf fmtXIIIlow
  rw [BitVec.getLsbD_extractLsb', bit_append_high _ _ _ (by decide), bit_append_high _ _ _ (by decide),
    bit_append_low _ _ _ (by decide)]
  rfl

/-! ### Second halfwords -/

variable (r3 : Reg) (sub : BitVec 11)

theorem rowOf_fmtXI : rowOf (fmtXI r3 sub) = sub.extractLsb' 7 4 := low_fmtXI _ _ _ _ (by decide)

theorem colOf_fmtXI : colOf (fmtXI r3 sub) = sub.extractLsb' 5 2 := low_fmtXI _ _ _ _ (by decide)

theorem subOf_fmtXI : subOf (fmtXI r3 sub) = sub.extractLsb' 0 5 := low_fmtXI _ _ _ _ (by decide)

theorem rowOf_fmtXIIcmov (sub : BitVec 6) (c : BitVec 4) : rowOf (fmtXIIcmov r3 sub c) = sub.extractLsb' 2 4 := by
  rw [fmtXIIcmov_eq, rowOf_fmtXI, extract_append_high _ _ _ _ (by decide), extract_append_high _ _ _ _ (by decide)]

theorem colOf_fmtXIIcmov (sub : BitVec 6) (c : BitVec 4) : colOf (fmtXIIcmov r3 sub c) = sub.extractLsb' 0 2 := by
  rw [fmtXIIcmov_eq, colOf_fmtXI, extract_append_high _ _ _ _ (by decide), extract_append_high _ _ _ _ (by decide)]

theorem reg3Of_fmtXIIcmov (sub : BitVec 6) (c : BitVec 4) : reg3Of (fmtXIIcmov r3 sub c) = r3 := by
  rw [fmtXIIcmov_eq, reg3Of_fmtXI]

theorem cond_fmtXIIcmov (sub : BitVec 6) (c : BitVec 4) : (fmtXIIcmov r3 sub c).extractLsb' 1 4 = c := by
  unfold fmtXIIcmov
  rw [extract_append_high _ _ _ _ (by decide), extract_append_low _ _ _ _ (by decide)]
  simp

theorem bit_fmtXIIcmov (sub : BitVec 6) (c : BitVec 4) : (fmtXIIcmov r3 sub c).getLsbD 0 = false := by
  unfold fmtXIIcmov
  rw [bit_append_low _ _ _ (by decide)]
  rfl

theorem subOf_fmtXIIIhigh (l : BitVec 12) (low : BitVec 5) : subOf (fmtXIIIhigh l low) = low := by
  unfold subOf fmtXIIIhigh
  rw [extract_append_low _ _ _ _ (by decide)]
  simp

theorem bit_fmtXIIIhigh (l : BitVec 12) (low : BitVec 5) : (fmtXIIIhigh l low).getLsbD 0 = low.getLsbD 0 := by
  unfold fmtXIIIhigh
  rw [bit_append_low _ _ _ (by decide)]

/-! ### Cells of the opcode map -/

section Cells

variable {h h1 : Half} {more : List Half}

theorem decode_row10 (hr : rowOf h = 0b1010#4) : decode (h :: more) = decodeRow10 h := by
  simp [decode, hr]

theorem decode_row12 (hr : rowOf h = 0b1100#4) : decode (h :: h1 :: more) = decodeRow12 h h1 more := by
  simp [decode, decodeLong, hr]

theorem decode_row14 (hr : rowOf h = 0b1110#4) : decode (h :: h1 :: more) = decodeRow14 h h1 := by
  simp [decode, decodeLong, hr]

theorem decode_row15 (hr : rowOf h = 0b1111#4) : decode (h :: h1 :: more) = decodeRow15 h h1 more := by
  simp [decode, decodeLong, hr]

/-- Format V is the jump cell. -/
theorem decode_fmtV (r2 : Reg) (low : BitVec 6) :
    decode (fmtV r2 low :: h1 :: more) = decodeJump (fmtV r2 low) h1 more := by
  have hc : ∀ b : BitVec 1, (0#1 ++ b : BitVec 2) = 0b00#2 ∨ (0#1 ++ b : BitVec 2) = 0b01#2 := by decide
  rw [decode_row15 (rowOf_fmtV r2 low), decodeRow15, colOf_fmtV]
  rcases hc (low.extractLsb' 5 1) with e | e <;> simp [e]

/-- Opcode 111111b with bit 16 = 0 is expansion 1. -/
theorem decode_expansion (r2 r1 : Reg) (h0 : h1.getLsbD 0 = false) :
    decode (fmtI r2 0b111111#6 r1 :: h1 :: more) = decodeExpansion (fmtI r2 0b111111#6 r1) h1 := by
  rw [decode_row15 (by simp), decodeRow15, colOf_fmtI]
  exact if_neg (by rw [h0]; decide)

/-- Both columns of DISPOSE. -/
theorem decode_dispose (imm5 : BitVec 5) (l : BitVec 12) :
    decode (fmtXIIIlow 0b11001#5 imm5 l :: h1 :: more) = decodeDispose (fmtXIIIlow 0b11001#5 imm5 l) h1 := by
  have hc : ∀ c : BitVec 2, c.getLsbD 1 = true → c = 0b10#2 ∨ c = 0b11#2 := by decide
  rw [decode_row12 (rowOf_fmtXIIIlow _ _ _)]
  rcases hc _ (colOf_bit1_fmtXIIIlow 0b11001#5 imm5 l) with e | e <;> simp [decodeRow12, e, reg2Of_fmtXIIIlow]

/-- Expansion 1 with bit 26 = 1 is the illegal pattern (R160). -/
theorem decodeExpansion_high (hb : (rowOf h1).getLsbD 3 = true) :
    decodeExpansion h h1 =
      .ok (.illegalHigh (reg3Of h1) (h1.extractLsb' 7 3) (h1.extractLsb' 1 6) (reg2Of h) (reg1Of h)) := by
  unfold decodeExpansion
  split
  case h_9 => rfl
  all_goals
    next e => rw [e] at hb; exact absurd hb (by decide)

/-- PREPARE is in the jump cell, with r0 and bit 16 = 1. -/
theorem decode_prepare (imm5 : BitVec 5) (l : BitVec 12) {low : BitVec 5} (hl : low.getLsbD 0 = true) :
    decode (fmtXIIIlow 0b11110#5 imm5 l :: fmtXIIIhigh l low :: more) =
      decodePrepare (fmtXIIIlow 0b11110#5 imm5 l) (fmtXIIIhigh l low) more := by
  rw [fmtXIIIlow_prepare, decode_fmtV, decodeJump, if_pos ((bit_fmtXIIIhigh l low).trans hl),
    if_pos (reg2Of_fmtV _ _)]

/-- SLD.BU and SLD.HU by bit 4 (R153). -/
theorem decode_sldu {r2 : Reg} (hr : r2 ≠ 0#5) (low : BitVec 5) :
    decode (fmtI r2 0b000011#6 low :: more) =
      if low.getLsbD 4 then .ok (.sldHu (low.extractLsb' 0 4 ++ 0#1) r2)
      else .ok (.sldBu (low.extractLsb' 0 4) r2) := by
  have hb := bit_fmtI r2 low 0b000011#6 4 (by decide)
  rw [← hb]
  simp [decode, decodeRow0, hr, low_fmtI]

/-- MUL and MULU imm9 by bit 17 (R132); the lower half of imm9 is in the first halfword. -/
theorem decode_mulImm9 (r2 r1 r3 : Reg) (high : BitVec 4) {sub : BitVec 2} (hs : sub.getLsbD 0 = false) :
    decode (fmtI r2 0b111111#6 r1 :: fmtXIImul r3 high sub :: more) =
      if sub.getLsbD 1 then .ok (.muluImm9 (high ++ r1) r2 r3) else .ok (.mulImm9 (high ++ r1) r2 r3) := by
  have bits : ∀ k, k < 2 → (fmtXIImul r3 high sub).getLsbD k = sub.getLsbD k := fun k hk => by
    rw [fmtXIImul_eq, bit_fmtXI _ _ _ (by omega), bit_append_low _ _ _ hk]
  have himm : (fmtXIImul r3 high sub).extractLsb' 2 4 = high := by
    rw [fmtXIImul_eq, low_fmtXI _ _ _ _ (by decide), extract_append_high _ _ _ _ (by decide),
      extract_append_low _ _ _ _ (by decide)]
    simp
  have hrow : rowOf (fmtXIImul r3 high sub) = 0b0100#4 := by
    rw [fmtXIImul_eq, rowOf_fmtXI, extract_append_high _ _ _ _ (by decide), extract_append_high _ _ _ _ (by decide)]
    rfl
  have hcol : (colOf (fmtXIImul r3 high sub)).getLsbD 1 = true := by
    rw [colOf, BitVec.getLsbD_extractLsb', fmtXIImul_eq, bit_fmtXI _ _ _ (by decide),
      bit_append_high _ _ _ (by decide), bit_append_high _ _ _ (by decide)]
    rfl
  have hc : ∀ c : BitVec 2, c.getLsbD 1 = true → c = 0b10#2 ∨ c = 0b11#2 := by decide
  rw [decode_expansion _ _ ((bits 0 (by decide)).trans hs), decodeExpansion, hrow]
  have himm9 : imm9Of (fmtI r2 0b111111#6 r1) (fmtXIImul r3 high sub) = high ++ r1 := by
    rw [imm9Of, himm, low_fmtI _ _ _ _ _ (by decide)]
    simp
  have hr3 : reg3Of (fmtXIImul r3 high sub) = r3 := by rw [fmtXIImul_eq, reg3Of_fmtXI]
  rcases hc _ hcol with e | e <;>
    simp only [expandRow4, e, bits 1 (by decide), himm9, hr3, reg1Of_fmtI, reg2Of_fmtI] <;>
    rfl

/-- The illegal pattern with bit 26 = 1 (R160). -/
theorem decode_illegalHigh (r2 r1 a : Reg) (b : BitVec 3) (c : BitVec 6) :
    decode (fmtI r2 0b111111#6 r1 :: illegalHighHalf a b c :: more) = .ok (.illegalHigh a b c r2 r1) := by
  have h0 : (illegalHighHalf a b c).getLsbD 0 = false := by
    rw [illegalHighHalf, bit_append_low _ _ _ (by decide)]
    rfl
  have hrow : (rowOf (illegalHighHalf a b c)).getLsbD 3 = true := by
    rw [rowOf, BitVec.getLsbD_extractLsb', illegalHighHalf, bit_append_high _ _ _ (by decide),
      bit_append_high _ _ _ (by decide), bit_append_high _ _ _ (by decide), bit_append_low _ _ _ (by decide)]
    rfl
  have hb : (illegalHighHalf a b c).extractLsb' 7 3 = b := by
    rw [illegalHighHalf, extract_append_high _ _ _ _ (by decide), extract_append_high _ _ _ _ (by decide),
      extract_append_low _ _ _ _ (by decide)]
    simp
  have hc : (illegalHighHalf a b c).extractLsb' 1 6 = c := by
    rw [illegalHighHalf, extract_append_high _ _ _ _ (by decide), extract_append_low _ _ _ _ (by decide)]
    simp
  rw [decode_expansion _ _ h0, decodeExpansion_high hrow, hb, hc, illegalHighHalf_eq, reg3Of_fmtXI, reg1Of_fmtI,
    reg2Of_fmtI]

/-- The illegal pattern with bits 26..23 = 0111b (R160). -/
theorem decode_illegalSeven (r2 r1 a : Reg) (c : BitVec 6) :
    decode (fmtI r2 0b111111#6 r1 :: illegalSevenHalf a c :: more) = .ok (.illegalSeven a c r2 r1) := by
  have h0 : (illegalSevenHalf a c).getLsbD 0 = false := by
    rw [illegalSevenHalf, bit_append_low _ _ _ (by decide)]
    rfl
  have hrow : rowOf (illegalSevenHalf a c) = 0b0111#4 := by
    rw [rowOf, illegalSevenHalf, extract_append_high _ _ _ _ (by decide), extract_append_high _ _ _ _ (by decide),
      extract_append_low _ _ _ _ (by decide)]
    rfl
  have hc : (illegalSevenHalf a c).extractLsb' 1 6 = c := by
    rw [illegalSevenHalf, extract_append_high _ _ _ _ (by decide), extract_append_low _ _ _ _ (by decide)]
    simp
  have ha : reg3Of (illegalSevenHalf a c) = a := by rw [illegalSevenHalf_eq, reg3Of_fmtXI]
  rw [decode_expansion _ _ h0, decodeExpansion, hrow]
  simp only [hc, ha, reg1Of_fmtI, reg2Of_fmtI]

end Cells

/-! ### Immediates that are cut (R140, R141) -/

/-- A value whose two lowest bits are 0 is its upper bits with two 0s. -/
theorem wordDisp_split (d : BitVec 8) (h : wordDisp d = true) : d.extractLsb' 2 6 ++ 0#2 = d := by
  have h0 : d.extractLsb' 0 2 = 0#2 := by
    obtain ⟨ha, hb⟩ : d.getLsbD 0 = false ∧ d.getLsbD 1 = false := by simpa [wordDisp] using h
    apply BitVec.eq_of_getLsbD_eq
    intro k hk
    interval_cases k <;> simp_all
  rw [← h0, split_at]

theorem nonZero_iff {r : Reg} : nonZero r = true ↔ r ≠ 0#5 := by simp [nonZero]

/-- The two parts of disp22. -/
theorem disp22Of_encoded (r2 : Reg) {b : BitVec 1} (d : BitVec 22) (h : evenDisp d = true) :
    disp22Of (fmtV r2 (d.extractLsb' 16 6)) (dispHalf (d.extractLsb' 1 15) b) = d := by
  have hd : (d.extractLsb' 16 6 ++ d.extractLsb' 1 15 : BitVec 21) = d.extractLsb' 1 21 :=
    BitVec.extractLsb'_append_extractLsb'_eq_extractLsb' rfl
  rw [disp22Of, low_fmtV _ _ _ _ (by decide), high_dispHalf]
  simp [hd, even_split _ h]

theorem halves_split (w : Word) : w.extractLsb' 16 16 ++ w.extractLsb' 0 16 = w := split_at (m := 16) (k := 16) w

/-- CALLT's immediate lies across the opcode and the field of reg1 (R155). -/
theorem fmtI_callt (imm6 : BitVec 6) :
    fmtI 0#5 (0b01000#5 ++ imm6.extractLsb' 5 1) (imm6.extractLsb' 0 5) = 0b0000001000#10 ++ imm6 := by
  have hi : imm6.extractLsb' 5 1 ++ imm6.extractLsb' 0 5 = imm6 := split_at (m := 1) (k := 5) imm6
  calc fmtI 0#5 (0b01000#5 ++ imm6.extractLsb' 5 1) (imm6.extractLsb' 0 5)
    _ = 0#5 ++ 0b01000#5 ++ (imm6.extractLsb' 5 1 ++ imm6.extractLsb' 0 5) := by
      simp only [fmtI, BitVec.append_assoc, BitVec.cast_eq]
    _ = 0b0000001000#10 ++ imm6 := by rw [hi]; rfl

/-! ### The round trip -/

/-- Decoding an encoded well-formed instruction gives it back, whatever follows it. -/
theorem decode_encode_append (i : Instr) (more : List Half) (h : i.wf = true) :
    decode (encode i ++ more) = .ok i := by
  cases i with
  | notReg | orReg | xorReg | andReg | tst | subr | sub | addReg | cmpReg | addImm5 | cmpImm5 | shrImm5 | sarImm5
  | shlImm5 | sxb | sxh | zxb | zxh | jmp =>
    simp [encode, decode, decodeRow0, decodeRow1, decodeRow2, decodeRow3, decodeRow4, decodeRow5]
  | satsubr | satsub | sataddReg | mulhReg | movImm5 | sataddImm5 | mulhImm5 =>
    have hr := nonZero_iff.mp h
    simp [encode, decode, decodeRow1, decodeRow4, decodeRow5, hr]
  | sldB | sstB => simp [encode, decode, low_fmtIV]
  | sldH _ _ | sstH _ _ => simp [encode, decode, low_fmtIV, even_split _ h]
  | sldW disp8 | sstW _ disp8 =>
    have hd := wordDisp_split disp8 h
    rw [encode, List.cons_append, decode_row10 (rowOf_fmtIV _ _ _), decodeRow10, bit_fmtIV _ _ _ _ (by decide),
      bit_append_low _ _ _ (by decide), low_fmtIV _ _ _ _ _ (by decide), extract_append_high _ _ _ _ (by decide)]
    simp [hd]
  | addi | ori | xori | andi | ldB | stB => simp [encode, decode, decodeLong, decodeRow12, decodeRow13, decodeRow14]
  | movea | movhi | satsubi | mulhi =>
    have hr := nonZero_iff.mp h
    simp [encode, decode, decodeLong, decodeRow12, decodeRow13, hr]
  | ldH | ldW | stH | stW =>
    rw [encode, List.cons_append, List.cons_append, decode_row14 (by simp), decodeRow14, colOf_fmtI, evenDisp16Of,
      bit_dispHalf, high_dispHalf, even_split _ h]
    simp
  | set1Disp | not1Disp | clr1Disp | tst1Disp => simp [encode, decode, decodeLong, decodeRow15, decodeBit1]
  | ctret | di | ei | halt | reti | dbret | nop | dbtrap => rfl
  | movReg reg1 reg2 =>
    have hne : fmtI reg2 0b000000#6 reg1 ≠ 0#16 := fun e => by
      have h1 : reg1 = 0#5 := by rw [← reg1Of_fmtI reg2 reg1 0b000000#6, e]; rfl
      have h2 : reg2 = 0#5 := by rw [← reg2Of_fmtI reg2 reg1 0b000000#6, e]; rfl
      rw [h1, h2] at h
      cases h
    simp [encode, decode, decodeRow0, hne]
  | divhReg2 =>
    obtain ⟨h1, h2⟩ := (Bool.and_eq_true _ _).mp h
    simp [encode, decode, decodeRow0, nonZero_iff.mp h1, nonZero_iff.mp h2]
  | switch => simp [encode, decode, decodeRow0, nonZero_iff.mp h]
  | sldBu disp4 reg2 =>
    rw [encode, List.cons_append, decode_sldu (nonZero_iff.mp h), bit_append_high _ _ _ (by decide),
      extract_append_low _ _ _ _ (by decide)]
    simp
  | sldHu disp5 reg2 =>
    obtain ⟨hd, h2⟩ := (Bool.and_eq_true _ _).mp h
    rw [encode, List.cons_append, decode_sldu (nonZero_iff.mp h2), bit_append_high _ _ _ (by decide),
      extract_append_low _ _ _ _ (by decide)]
    simp [even_split _ hd]
  | callt imm6 =>
    have hc : ∀ b : BitVec 1, (0b01000#5 ++ b : BitVec 6).extractLsb' 2 4 = 0b0100#4 ∧
        ((0b01000#5 ++ b : BitVec 6).extractLsb' 0 2 = 0b00#2 ∨
          (0b01000#5 ++ b : BitVec 6).extractLsb' 0 2 = 0b01#2) := by decide
    obtain ⟨hrow, hcol⟩ := hc (imm6.extractLsb' 5 1)
    have hi : (fmtI 0#5 (0b01000#5 ++ imm6.extractLsb' 5 1) (imm6.extractLsb' 0 5)).extractLsb' 0 6 = imm6 := by
      rw [fmtI_callt, extract_append_low _ _ _ _ (by decide)]
      simp
    rcases hcol with hcol | hcol <;> simp [encode, decode, decodeRow4, hrow, hcol, hi]
  | bcond _ disp9 =>
    have hd : (disp9.extractLsb' 4 5 ++ disp9.extractLsb' 1 3 : BitVec 8) = disp9.extractLsb' 1 8 :=
      BitVec.extractLsb'_append_extractLsb'_eq_extractLsb' rfl
    simp [encode, decode, disp9Of, hd, even_split _ h]
  | movImm32 => simp [encode, decode, decodeLong, decodeRow12, halves_split]
  | jr disp22 =>
    rw [encode, List.cons_append, List.cons_append, decode_fmtV, decodeJump, bit_dispHalf, reg2Of_fmtV,
      disp22Of_encoded _ _ h]
    simp
  | jarl disp22 reg2 =>
    obtain ⟨hd, h2⟩ := (Bool.and_eq_true _ _).mp h
    rw [encode, List.cons_append, List.cons_append, decode_fmtV, decodeJump, bit_dispHalf, reg2Of_fmtV,
      disp22Of_encoded _ _ hd]
    simp [nonZero_iff.mp h2]
  | ldBu disp16 reg1 reg2 =>
    have hd : disp16.extractLsb' 1 15 ++ disp16.extractLsb' 0 1 = disp16 := split_at (m := 15) (k := 1) disp16
    have hlow := low_fmtV reg2 (disp16.extractLsb' 0 1 ++ reg1)
    rw [encode, List.cons_append, List.cons_append, decode_fmtV, decodeJump, bit_dispHalf, reg2Of_fmtV, high_dispHalf,
      reg1Of, hlow 0 5 (by decide), hlow 5 1 (by decide), extract_append_high _ _ _ _ (by decide),
      extract_append_low _ _ _ _ (by decide)]
    simp [nonZero_iff.mp h, hd]
  | ldHu disp16 reg1 reg2 =>
    obtain ⟨hd, h2⟩ := (Bool.and_eq_true _ _).mp h
    rw [encode, List.cons_append, List.cons_append, decode_row15 (by simp), decodeRow15, colOf_fmtI, evenDisp16Of,
      bit_dispHalf, high_dispHalf, even_split _ hd]
    simp [nonZero_iff.mp h2]
  | prepare | prepareSp | prepareImm16 | prepareImm16Hi | prepareImm32 =>
    simp [encode, decode_prepare, decodePrepare, subOf_fmtXIIIhigh, listOf_encoded, stackImmOf_fmtXIIIlow, halves_split]
  | dispose =>
    simp [encode, decode_dispose, decodeDispose, subOf_fmtXIIIhigh, listOf_encoded, stackImmOf_fmtXIIIlow]
  | disposeJump =>
    simp [encode, decode_dispose, decodeDispose, subOf_fmtXIIIhigh, listOf_encoded, stackImmOf_fmtXIIIlow,
      nonZero_iff.mp h]
  | setf c reg2 | sasf c reg2 =>
    have hb : (fmtI reg2 0b111111#6 (0#1 ++ c.toBits)).getLsbD 4 = false := by
      rw [bit_fmtI _ _ _ _ (by decide), bit_append_high _ _ _ (by decide)]
      rfl
    have hc : (fmtI reg2 0b111111#6 (0#1 ++ c.toBits)).extractLsb' 0 4 = c.toBits := by
      rw [low_fmtI _ _ _ _ _ (by decide), extract_append_low _ _ _ _ (by decide)]
      simp
    rw [encode, List.cons_append, List.cons_append, decode_expansion _ _ (by decide)]
    simp only [decodeExpansion, expandRow0, expandRow4, hb, hc, Cond.ofBits_toBits, reg2Of_fmtI]
    rfl
  | ldsr | stsr | shrReg | sarReg | shlReg | set1Reg | not1Reg | clr1Reg | tst1Reg | trap =>
    rw [encode, List.cons_append, List.cons_append, decode_expansion _ _ (by decide)]
    simp [decodeExpansion, expandRow0, expandRow1, expandRow2, rowOf, colOf]
  | mulReg | muluReg | div | divhReg3 | divhu | divu | bsh | bsw | hsw =>
    rw [encode, List.cons_append, List.cons_append, decode_expansion _ _ (by rw [bit_fmtXI _ _ _ (by decide)]; rfl)]
    simp [decodeExpansion, expandRow4, expandRow5, expandRow6, rowOf_fmtXI, colOf_fmtXI, subOf_fmtXI]
  | mulImm9 imm9 reg2 reg3 | muluImm9 imm9 reg2 reg3 =>
    have hi : imm9.extractLsb' 5 4 ++ imm9.extractLsb' 0 5 = imm9 := split_at (m := 4) (k := 5) imm9
    rw [encode, List.cons_append, List.cons_append, decode_mulImm9 _ _ _ _ (by decide), hi]
    simp
  | cmovReg | cmovImm5 =>
    rw [encode, List.cons_append, List.cons_append, decode_expansion _ _ (bit_fmtXIIcmov _ _ _)]
    simp [decodeExpansion, expandRow6, rowOf_fmtXIIcmov, colOf_fmtXIIcmov, reg3Of_fmtXIIcmov, cond_fmtXIIcmov]
  | illegalHigh => exact decode_illegalHigh _ _ _ _ _
  | illegalSeven => exact decode_illegalSeven _ _ _ _

/-- The length in bytes is that of the halfwords (R135). -/
theorem two_mul_length_encode (i : Instr) : 2 * (encode i).length = i.length := by cases i <;> rfl

theorem Instr.length_le (i : Instr) : i.length ≤ 8 := by cases i <;> exact Nat.le_of_ble_eq_true rfl

end Sys2Proof

namespace Sys2Proof.Machine

variable {s : State}

/-! ### Fetching what stands at the pc (spec/20_memory.md R84) -/

/-- Where the bytes of some halfwords stand in usable cells, they are the first that a fetch gives. -/
theorem State.fetchHalves_eq_append {n : Nat} (hs : List Half) (k c : Nat) (hn : hs.length ≤ n)
    (hb : ∀ j < 2 * hs.length,
      usable (c + j) = true ∧ (hs.flatMap bytesOfHalf)[j]? = some (s.cellRead (k + j) (c + j))) :
    ∃ more, s.fetchHalves k c n = hs ++ more := by
  induction hs generalizing n k c with
  | nil => exact ⟨_, rfl⟩
  | cons h hs ih =>
    rw [List.length_cons] at hn hb
    obtain ⟨n, rfl⟩ := Nat.exists_eq_succ_of_ne_zero (show n ≠ 0 by omega)
    obtain ⟨hu, hlo⟩ := hb 0 (by omega)
    obtain ⟨-, hhi⟩ := hb 1 (by omega)
    obtain ⟨more, hm⟩ := ih (n := n) (k + 2) (c + 2) (by omega) fun j hj => by
      have := hb (j + 2) (by omega)
      simpa [bytesOfHalf, Nat.add_assoc, Nat.add_comm 2] using this
    have hh : s.fetchHalf k c = h := by
      simp only [List.flatMap_cons, bytesOfHalf, List.cons_append, List.getElem?_cons_zero, List.getElem?_cons_succ,
        Option.some.injEq, Nat.add_zero] at hlo hhi
      rw [State.fetchHalf, ← hlo, ← hhi]
      exact split_at (m := 8) (k := 8) h
    exact ⟨more, by rw [State.fetchHalves, if_pos (by exact hu), hh, hm, List.cons_append]⟩

/-- No cell recorded, none found. -/
theorem firstIn_eq_none {cells : List Nat} {c n : Nat} (h : ∀ k < n, c + k ∉ cells) : firstIn cells c n = none := by
  induction n generalizing c with
  | zero => rfl
  | succ n ih =>
    rw [firstIn, if_neg (by simpa using h 0 (by omega))]
    exact ih fun k hk => by rw [Nat.add_assoc, Nat.add_comm 1]; exact h (k + 1) (by omega)

theorem Product.plain_of_forall {p : Product} {c n : Nat} (h : ∀ k < n, (p.kindAt (c + k)).isPlain = true) :
    p.plain c n = true := by
  induction n generalizing c with
  | zero => rfl
  | succ n ih =>
    rw [Product.plain, Bool.and_eq_true]
    exact ⟨h 0 (by omega), ih fun k hk => by rw [Nat.add_assoc, Nat.add_comm 1]; exact h (k + 1) (by omega)⟩

/-- The instruction whose bytes stand at the pc is the one fetched, and the fetch uses no free value. -/
theorem State.fetch_of_holdsCode {i : Instr} (h : s.holdsCode i) : s.fetch = .instr i s := by
  obtain ⟨hwf, -, hbytes⟩ := h
  have hlen := two_mul_length_encode i
  obtain ⟨more, hm⟩ := State.fetchHalves_eq_append (s := s) (n := 4) (encode i) 0 s.pc.toNat
    (by have := i.length_le; omega) fun j hj => by
      obtain ⟨hu, hp, -, hb⟩ := hbytes j (hlen ▸ hj)
      exact ⟨hu, by rw [State.cellRead, if_pos hp]; exact hb⟩
  have hd : decode (s.fetchHalves 0 s.pc.toNat 4) = .ok i := hm ▸ decode_encode_append i more hwf
  have hf : firstIn s.unsynced s.pc.toNat i.length = none := firstIn_eq_none fun k hk => (hbytes k hk).2.2.1
  have hp : s.product.plain s.pc.toNat i.length = true := Product.plain_of_forall fun k hk => (hbytes k hk).2.1
  simp only [State.fetch, hd, hf, hp, if_true]

/-- The environment's action does not move the code. -/
theorem State.holdsCode_met {i : Instr} (h : s.holdsCode i) : s.met.holdsCode i := h

/-- Settles O6: the boundary runs, the fetch gives the instruction, and `finish` passes its answer on. -/
theorem stepRunsTheDecodedInstruction : Obligations.StepRunsTheDecodedInstruction := by
  intro s i hcode hexec
  have hstep : step s = finish i (exec i s.met) := by
    rw [step_of_executing s hexec, State.runInstr, State.fetch_of_holdsCode (State.holdsCode_met hcode)]
  exact ⟨fun t ht => by rw [hstep, ht]; rfl, fun r hr => by rw [hstep, hr]; rfl⟩

end Sys2Proof.Machine
end

section
/-! Data accesses (spec/20_memory.md R81 to R91): the alignment of their addresses (O11), what a store instruction and a
load instruction do, whatever their width and form, and a load right after a store (O60). -/

namespace Sys2Proof.Machine

variable {s t : State}

/-! ### Alignment (spec/20_memory.md R90, R91) -/

/-- Masking bit 0 rounds down to a multiple of 2. -/
theorem toNat_and_even (a : Word) : (a &&& 0xFFFFFFFE#32).toNat = a.toNat / 2 * 2 := by
  have h : a &&& 0xFFFFFFFE#32 = (a >>> 1) <<< 1 := by
    apply BitVec.eq_of_getLsbD_eq
    intro i hi
    rw [BitVec.getLsbD_and, BitVec.getLsbD_shiftLeft, BitVec.getLsbD_ushiftRight]
    interval_cases i <;> simp
  rw [h]
  simp only [BitVec.toNat_shiftLeft, BitVec.toNat_ushiftRight, Nat.shiftRight_eq_div_pow, Nat.shiftLeft_eq]
  omega

theorem Product.halfAddr_of_misalign {p : Product} (h : p.misalign = true) (a : Word) : p.halfAddr a = a := if_pos h

theorem Product.wordAddr_of_misalign {p : Product} (h : p.misalign = true) (a : Word) : p.wordAddr a = a := if_pos h

theorem Product.halfAddr_of_aligning {p : Product} (h : p.misalign = false) (a : Word) :
    p.halfAddr a = a &&& 0xFFFFFFFE#32 := if_neg (by simp [h])

/-- Without MISALIGN_ENABLE a word is at a stack address. -/
theorem Product.wordAddr_of_aligning {p : Product} (h : p.misalign = false) (a : Word) :
    p.wordAddr a = stackAddr a := if_neg (by simp [h])

/-- Settles O11. -/
theorem dataAddressesAlign : Obligations.DataAddressesAlign := by
  intro p a
  refine ⟨fun h => ⟨p.halfAddr_of_misalign h a, p.wordAddr_of_misalign h a⟩, fun h => ⟨?_, ?_⟩, toNat_stackAddr a⟩
  · rw [Product.halfAddr_of_aligning h, toNat_and_even]
  · rw [Product.wordAddr_of_aligning h, toNat_stackAddr]

/-! ### Store and load instructions -/

theorem stores_storeByte (h : s.mem.wf = true) (a v len : Word) :
    Stores a 1 v len s ((s.storeByte a (v.extractLsb' 0 8)).advance len) := by
  rw [State.storeByte_eq]
  exact stores_storeBytes s h a _ 1 (by decide) v len fun k hk => by rw [Nat.lt_one_iff.mp hk]

theorem stores_storeHalf (h : s.mem.wf = true) (a v len : Word) :
    Stores a 2 v len s ((s.storeHalf a (lowHalf v)).advance len) := by
  rw [State.storeHalf_eq]
  refine stores_storeBytes s h a _ 2 (by decide) v len fun k hk => ?_
  rw [lowHalf, BitVec.extractLsb'_extractLsb'_of_le (by omega)]

theorem stores_storeWord (h : s.mem.wf = true) (a v len : Word) :
    Stores a 4 v len s ((s.storeWord a v).advance len) := by
  rw [State.storeWord_eq]
  exact stores_storeBytes s h a _ 4 (by decide) v len fun _ _ => rfl

/-- Everything a store instruction does, of any width and form (spec/40_load_store.md R214 to R219). -/
theorem exec_storeOf {i : Instr} {a v : Word} {n : Nat} (hs : s.mem.wf = true) (hi : i.storeOf s = some (a, n, v))
    (h : exec i s = .next t) : ∃ len, Stores a n v len s t := by
  cases i with
  | stB | sstB => cases hi; exact ⟨_, of_next h rfl (stores_storeByte hs _ _ _)⟩
  | stH | sstH => cases hi; exact ⟨_, of_next h rfl (stores_storeHalf hs _ _ _)⟩
  | stW | sstW => cases hi; exact ⟨_, of_next h rfl (stores_storeWord hs _ _ _)⟩
  | _ => cases hi

/-- Everything a load instruction does, of any width and form (spec/40_load_store.md R201 to R210). -/
theorem exec_loadOf {i : Instr} {a : Word} {n : Nat} {r : Reg} {value : (Nat → Byte) → Word}
    (hi : i.loadOf s = some (a, n, r, value)) (h : exec i s = .next t) : ∃ len, Loads r a n value len s t := by
  cases i with
  | ldB | ldBu | sldB | sldBu =>
    cases hi
    exact ⟨_, of_next h rfl (loads_afterRead s _ _ _ 1 _ _ _ (by rw [State.loadByte_eq]; rfl))⟩
  | ldH | ldHu | sldH | sldHu =>
    cases hi
    exact ⟨_, of_next h rfl (loads_afterRead s _ _ _ 2 _ _ _ (by rw [State.loadHalf_eq]; rfl))⟩
  | ldW | sldW =>
    cases hi
    exact ⟨_, of_next h rfl (loads_afterRead s _ _ _ 4 _ _ _ (State.loadWord_eq s _))⟩
  | _ => cases hi

/-- What a load instruction makes of the bytes depends only on those it reads. -/
theorem value_loadOf_congr {i : Instr} {a : Word} {n : Nat} {r : Reg} {value : (Nat → Byte) → Word}
    (hi : i.loadOf s = some (a, n, r, value)) {f g : Nat → Byte} (h : ∀ k < n, f k = g k) : value f = value g := by
  cases i with
  | ldB | ldBu | sldB | sldBu => cases hi; simp only [h 0 (by decide)]
  | ldH | ldHu | sldH | sldHu => cases hi; simp only [halfOf, h 0 (by decide), h 1 (by decide)]
  | ldW | sldW =>
    cases hi
    simp only [wordOf, h 0 (by decide), h 1 (by decide), h 2 (by decide), h 3 (by decide)]
  | _ => cases hi

/-- Settles O60: each byte the load reads is plain RAM, so it is the byte held, which is the one stored. -/
theorem loadsReadTheStoreBeforeThem : Obligations.LoadsReadTheStoreBeforeThem := by
  rintro s t u i j a _ n m k v r value hwf hi hj rfl hkm hram ht hu
  obtain ⟨-, hstored, -, -, hframe⟩ := exec_storeOf hwf hi ht
  obtain ⟨-, ⟨bytes, hread, hr⟩, -⟩ := exec_loadOf hj hu
  rw [hr, value_loadOf_congr hj fun l hl => ?_]
  have hkl : k + l < n := by omega
  have hb := hstored (k + l) hkl
  rw [if_pos (hram (k + l) hkl)] at hb
  rw [← hb, BitVec.ofNat_add, ← BitVec.add_assoc]
  refine hread l hl ?_
  rw [hframe.product, BitVec.add_assoc, ← BitVec.ofNat_add, hram (k + l) hkl]
  rfl

end Sys2Proof.Machine
end

section
/-! What one instruction can do to memory and to the record of stored cells, said once (`exec_access`), and that
only the stores change a byte (O59). -/

namespace Sys2Proof.Machine

variable {s t : State}

/-- The cells that the fetch unit may not have seen after the `l` bytes at these addresses were stored
(spec/20_memory.md R106; log 12). -/
def Records (l : List Word) (s t : State) : Prop :=
  ∀ c : Nat, c ∈ t.unsynced ↔ c ∈ s.unsynced ∨ ∃ a ∈ l, s.product.cell a = c

theorem Records.of_storeBytes (s : State) (a : Word) (bytes : Nat → Byte) (n : Nat) :
    Records (byteSpan a n) s (s.storeBytes a bytes n) :=
  s.mem_unsynced_storeBytes a bytes n

theorem Records.of_storeByte (s : State) (a : Word) (v : Byte) : Records (byteSpan a 1) s (s.storeByte a v) := by
  rw [State.storeByte_eq]
  exact .of_storeBytes s a _ 1

theorem Records.of_storeHalf (s : State) (a : Word) (v : Half) : Records (byteSpan a 2) s (s.storeHalf a v) := by
  rw [State.storeHalf_eq]
  exact .of_storeBytes s a _ 2

theorem Records.of_storeWord (s : State) (a v : Word) : Records (byteSpan a 4) s (s.storeWord a v) := by
  rw [State.storeWord_eq]
  exact .of_storeBytes s a _ 4

theorem Records.of_modifyBit (s : State) (a : Word) (n : Nat) (new : Bool → Bool) :
    Records (byteSpan a 1) s (s.modifyBit a n new) :=
  .of_storeByte (s.testBit a n) a _

/-- PREPARE's stores of the registers of a list, from sp down. -/
theorem Records.of_pushList (s : State) (l : List Reg) :
    Records (s.frameAddrs l.length) s (s.pushList l (s.gpr regSP)) :=
  s.mem_unsynced_pushList l (s.gpr regSP)

theorem Records.setReg {l : List Word} (h : Records l s t) (r : Reg) (v : Word) : Records l s (t.setReg r v) := h

theorem Records.advance {l : List Word} (h : Records l s t) (len : Word) : Records l s (t.advance len) := h

theorem Records.of_prepareFrame (s : State) (list12 : BitVec 12) (imm5 : BitVec 5) :
    Records (s.frameAddrs (listRegs list12).length) s (s.prepareFrame list12 imm5) :=
  (Records.of_pushList s _).setReg _ _

/-- How an instruction can leave memory and the record of stored cells: as they were, cleared of plain RAM by a control
transfer, or with the bytes it stores. -/
inductive Access (s : State) (i : Instr) (t : State) : Prop where
  | kept (hs : storeAddrs i s = []) (hc : i.transfers s = false) (hm : t.mem = s.mem) (hu : t.unsynced = s.unsynced)
  | transfer (hc : i.transfers s = true) (hm : t.mem = s.mem)
      (hu : t.unsynced = s.unsynced.filter fun c => s.product.kindAt c != .ram)
  | store (hi : i.stores = true) (hc : i.transfers s = false) (hu : Records (storeAddrs i s) s t)

/-- LDSR touches neither memory nor the record of stored cells. -/
theorem setSysReg_memory {regID : BitVec 5} {v : Word} (h : s.setSysReg regID v = some t) :
    t.mem = s.mem ∧ t.unsynced = s.unsynced := by
  unfold State.setSysReg at h
  split at h <;> cases h <;> exact ⟨rfl, rfl⟩

/-- RETI that is not refused is a return. -/
theorem execReti_eq_next (h : execReti s = .next t) : ∃ pc psw, t = s.returnTo pc psw := by
  unfold execReti at h
  repeat' split at h
  all_goals cases h
  all_goals exact ⟨_, _, rfl⟩

/-- Every answer of `exec` is one of these. -/
theorem exec_access {i : Instr} (h : exec i s = .next t) : Access s i t := by
  cases i with
  | movReg | movImm5 | movea | movhi | mulhReg | mulhImm5 | sxb | sxh | zxb | zxh | movImm32 | mulhi | cmovReg
  | cmovImm5 | sasf | setf | addReg | addImm5 | addi | sub | subr | andReg | andi | bsh | bsw | hsw | notReg | orReg
  | ori | sarReg | sarImm5 | shlReg | shlImm5 | shrReg | shrImm5 | xorReg | xori | sataddReg | sataddImm5 | satsub
  | satsubi | satsubr | cmpReg | cmpImm5 | tst | ldB | ldBu | ldH | ldHu | ldW | sldB | sldBu | sldH | sldHu | sldW
  | mulImm9 | muluImm9 | div | divhReg2 | divhReg3 | divhu | divu | tst1Disp | tst1Reg | di | ei | halt | nop =>
    exact of_next h rfl (.kept rfl rfl rfl rfl)
  | mulReg reg1 reg2 reg3 | muluReg reg1 reg2 reg3 =>
    cases hp : prohibitedProduct reg1 reg2 reg3 with
    | false => exact of_next h (if_neg (by simp [hp])) (.kept rfl rfl rfl rfl)
    | true => cases (if_pos hp).symm.trans h
  | stsr regID reg2 =>
    rcases hv : s.sysReg regID with _ | v <;> simp only [exec, execStsr, hv] at h <;> cases h
    exact .kept rfl rfl rfl rfl
  | ldsr reg2 regID =>
    rcases hu : s.setSysReg regID (s.gpr reg2) with _ | u <;> simp only [exec, execLdsr, hu] at h <;> cases h
    obtain ⟨hm, hu⟩ := setSysReg_memory hu
    exact .kept rfl rfl hm hu
  | dispose =>
    exact of_next h rfl (.kept rfl rfl (State.disposeFrame_mem s _ _) (State.disposeFrame_unsynced s _ _))
  | bcond cccc disp9 =>
    cases hc : s.cond cccc with
    | true => exact of_next h (if_pos hc) (.transfer hc rfl rfl)
    | false => exact of_next h (if_neg (by simp [hc])) (.kept rfl hc rfl rfl)
  | jarl | jmp | jr | callt | ctret | switch | trap | dbret | dbtrap | illegalHigh | illegalSeven =>
    exact of_next h rfl (.transfer rfl rfl rfl)
  | disposeJump imm5 list12 =>
    refine of_next h rfl (.transfer rfl (State.disposeFrame_mem s _ _) ?_)
    rw [State.jump_unsynced, State.disposeFrame_unsynced, State.disposeFrame_product]
  | reti =>
    obtain ⟨pc, psw, rfl⟩ := execReti_eq_next h
    exact .transfer rfl rfl rfl
  | stB | sstB => exact of_next h rfl (.store rfl rfl ((Records.of_storeByte s _ _).advance _))
  | stH | sstH => exact of_next h rfl (.store rfl rfl ((Records.of_storeHalf s _ _).advance _))
  | stW | sstW => exact of_next h rfl (.store rfl rfl ((Records.of_storeWord s _ _).advance _))
  | set1Disp | set1Reg | not1Disp | not1Reg | clr1Disp | clr1Reg =>
    exact of_next h rfl (.store rfl rfl ((Records.of_modifyBit s _ _ _).advance _))
  | prepare => exact of_next h rfl (.store rfl rfl ((Records.of_prepareFrame s _ _).advance _))
  | prepareSp | prepareImm16 | prepareImm16Hi | prepareImm32 =>
    exact of_next h rfl (.store rfl rfl (((Records.of_prepareFrame s _ _).setReg _ _).advance _))

/-- Settles O59. -/
theorem onlyStoresChangeMemory : Obligations.OnlyStoresChangeMemory := by
  intro i s t h hi
  obtain ⟨-, -, -, hproduct, -⟩ := onlyTheseWriteECRAndDIR i s t h
  cases exec_access h with
  | kept _ _ hm => exact SameMemory.of_fields hm hproduct
  | transfer _ hm => exact SameMemory.of_fields hm hproduct
  | store hs => cases hs.symm.trans hi

end Sys2Proof.Machine
end

section
/-! An instruction that an interrupt abandons (spec/20_memory.md R94, R95; spec/60_exceptions.md R413): how many of
its accesses PREPARE and DISPOSE have made, and that any other has done nothing (O55). -/

namespace Sys2Proof.Machine

variable {s u : State} {i : Instr} {list12 : BitVec 12} {imm5 : BitVec 5}

/-! ### The abandoned instruction, by what it is -/

theorem State.abandon_of_zero {b : Boundary} (h : b.progress = 0) (s : State) : s.abandon b = s := if_pos h

/-- A register written with what it holds. -/
theorem State.setReg_gpr_self (s : State) {r : Reg} (hr : r ≠ 0#5) : s.setReg r (s.gpr r) = s := by
  simp [State.setReg, writeReg, State.gpr, hr]

/-- PREPARE has made the first `b.progress` of its stores. -/
theorem State.abandon_of_prepares (hf : s.fetch = .instr i u) (hi : i.prepares list12) (b : Boundary) :
    ∃ d, s.abandon b =
      ({ s with draws := d } : State).pushList ((listRegs list12).take b.progress) (s.gpr regSP) := by
  by_cases hb : b.progress = 0
  · exact ⟨s.draws, by rw [State.abandon_of_zero hb, hb]; rfl⟩
  obtain ⟨d, rfl⟩ := State.fetch_eq hf
  refine ⟨d, ?_⟩
  obtain ⟨imm5, imm16, imm32, hi⟩ := hi
  simp only [List.mem_cons, List.not_mem_nil, or_false] at hi
  rw [State.abandon, if_neg hb, hf]
  rcases hi with rfl | rfl | rfl | rfl | rfl <;> rfl

/-- DISPOSE has made the first `b.progress` of its loads, and ep is settled. -/
theorem State.abandon_of_disposes (hf : s.fetch = .instr i u) (hi : i.disposes imm5 list12) (b : Boundary) :
    ∃ d, s.abandon b = (({ s with draws := d } : State).popList ((listRegs list12).reverse.take b.progress)
      (s.gpr regSP + frameSize imm5)).settleEP b.epLoaded (s.gpr regEP) := by
  by_cases hb : b.progress = 0
  · refine ⟨s.draws, ?_⟩
    rw [State.abandon_of_zero hb, hb, List.take_zero, State.popList]
    cases b.epLoaded
    · exact (State.setReg_gpr_self s (by decide)).symm
    · rfl
  obtain ⟨d, rfl⟩ := State.fetch_eq hf
  refine ⟨d, ?_⟩
  rw [State.abandon, if_neg hb, hf]
  obtain rfl | ⟨reg1, rfl⟩ := hi <;> rfl

/-- Any other instruction has made a read that is discarded, or nothing. -/
theorem State.abandon_of_other (hf : s.fetch = .instr i u)
    (hi : ∀ imm5 list12, ¬ i.prepares list12 ∧ ¬ i.disposes imm5 list12) (b : Boundary) :
    ∃ d, s.abandon b = { s with draws := d } := by
  by_cases hb : b.progress = 0
  · exact ⟨s.draws, State.abandon_of_zero hb s⟩
  obtain ⟨d, rfl⟩ := State.fetch_eq hf
  rw [State.abandon, if_neg hb, hf]
  cases i with
  | prepare list12 imm5 | prepareSp list12 imm5 => exact absurd ⟨imm5, 0, 0, by simp⟩ (hi imm5 list12).1
  | prepareImm16 list12 imm5 imm | prepareImm16Hi list12 imm5 imm =>
    exact absurd ⟨imm5, imm, 0, by simp⟩ (hi imm5 list12).1
  | prepareImm32 list12 imm5 imm => exact absurd ⟨imm5, 0, imm, by simp⟩ (hi imm5 list12).1
  | dispose imm5 list12 => exact absurd (.inl rfl) (hi imm5 list12).2
  | disposeJump imm5 list12 reg1 => exact absurd (.inr ⟨reg1, rfl⟩) (hi imm5 list12).2
  | _ => exact ⟨_, rfl⟩

/-! ### What it has done -/

/-- The stack after the registers of a list were pushed from sp down. -/
theorem pushed_pushList (h : s.mem.wf = true) {l : List Reg} (hl : l.length ≤ 2 ^ 20) :
    Pushed l s (s.pushList l (s.gpr 3#5)) := by
  refine ⟨fun j hj k hk => State.byteAt_pushList_self s h l hl _ j hj k hk,
    fun b hb => State.byteAt_pushList_other s h l _ b fun j hj k hk e => hb ?_⟩
  exact ⟨4 * (l.length - 1 - j) + k, by omega, by rw [e, stackAddr_frame _ hj]⟩

theorem State.gpr_pushList (s : State) (l : List Reg) (a : Word) (r : Reg) : (s.pushList l a).gpr r = s.gpr r :=
  State.gpr_of_regs (s.pushList_regs l a) r

theorem abandon_leaves_of_prepares (hf : s.fetch = .instr i u) (hi : i.prepares list12) (b : Boundary) :
    (∀ r : Reg, (s.abandon b).gpr r = s.gpr r) ∧
      (s.mem.wf = true → Pushed ((listRegs list12).take b.progress) s (s.abandon b)) := by
  obtain ⟨d, h⟩ := State.abandon_of_prepares hf hi b
  rw [h]
  refine ⟨State.gpr_pushList _ _ _, fun hwf => pushed_pushList (s := { s with draws := d }) hwf ?_⟩
  exact (List.length_take_le' _ _).trans ((length_listRegs list12).trans (by decide))

/-- The bytes of frame that imm5 stands for, in words. -/
theorem frameSize_eq (imm5 : BitVec 5) : frameSize imm5 = BitVec.ofNat 32 (4 * imm5.toNat) := by
  apply BitVec.eq_of_toNat_eq
  have := imm5.isLt
  simp only [frameSize, zext, BitVec.toNat_shiftLeft, BitVec.toNat_setWidth, BitVec.toNat_ofNat, Nat.shiftLeft_eq]
  omega

/-- The registers that an abandoned DISPOSE has loaded: each once, and not r0. -/
theorem nodup_take_reverse_listRegs (list12 : BitVec 12) (n : Nat) : ((listRegs list12).reverse.take n).Nodup :=
  (List.nodup_reverse.mpr (nodup_listRegs list12)).sublist (List.take_sublist _ _)

theorem zero_notMem_take_reverse_listRegs (list12 : BitVec 12) (n : Nat) :
    0#5 ∉ (listRegs list12).reverse.take n := fun h =>
  absurd (mem_listRegs (List.mem_reverse.mp (List.mem_of_mem_take h))) (by decide)

/-- The `j`-th word above the frame that DISPOSE loads (spec/47_special.md R346). -/
theorem disposed_word (sp : Word) (imm5 : BitVec 5) (j : Nat) :
    sp + frameSize imm5 + BitVec.ofNat 32 (4 * j) = sp + BitVec.ofNat 32 (4 * imm5.toNat + 4 * j) := by
  rw [frameSize_eq, BitVec.add_assoc, ← BitVec.ofNat_add]

theorem abandon_leaves_of_disposes (hf : s.fetch = .instr i u) (hi : i.disposes imm5 list12) (b : Boundary) :
    let loaded := (listRegs list12).reverse.take b.progress
    (∀ j, (h : j < loaded.length) →
      if loaded[j] = 30#5 ∧ b.epLoaded = false then (s.abandon b).gpr 30#5 = s.gpr 30#5
      else PoppedAt imm5 j loaded[j] s (s.abandon b)) ∧
    (∀ r : Reg, r ∉ loaded → (s.abandon b).gpr r = s.gpr r) ∧ SameMemory s (s.abandon b) := by
  intro loaded
  obtain ⟨d, h⟩ := State.abandon_of_disposes hf hi b
  rw [h]
  set popped := ({ s with draws := d } : State).popList loaded (s.gpr regSP + frameSize imm5)
  refine ⟨fun j hj => ?_, fun r hr => ?_, ?_⟩
  · split
    next hep => rw [hep.2]; exact State.gpr_settleEP_kept _ _
    next hep =>
      obtain ⟨bytes, hread, hreg⟩ := State.gpr_popList_self { s with draws := d } loaded
        (nodup_take_reverse_listRegs list12 _) (zero_notMem_take_reverse_listRegs list12 _)
        (s.gpr regSP + frameSize imm5) j hj
      rw [disposed_word] at hread
      refine ⟨bytes, hread, Eq.trans ?_ hreg⟩
      by_cases h30 : loaded[j] = 30#5
      · rw [(Bool.not_eq_false _).mp fun e => hep ⟨h30, e⟩]; rfl
      · exact State.gpr_settleEP_other _ h30 _ _
  · have kept : popped.gpr r = s.gpr r := State.gpr_popList_other _ loaded _ r hr
    by_cases h30 : r = 30#5
    · subst h30
      cases b.epLoaded
      · exact State.gpr_settleEP_kept _ _
      · exact kept
    · exact (State.gpr_settleEP_other _ h30 _ _).trans kept
  · rw [State.settleEP_eq]
    exact SameMemory.of_fields (State.popList_mem _ _ _) (State.popList_product _ _ _)

theorem abandon_leaves_of_other (hf : s.fetch = .instr i u)
    (hi : ∀ imm5 list12, ¬ i.prepares list12 ∧ ¬ i.disposes imm5 list12) (b : Boundary) :
    (∀ r : Reg, (s.abandon b).gpr r = s.gpr r) ∧ SameMemory s (s.abandon b) := by
  obtain ⟨d, h⟩ := State.abandon_of_other hf hi b
  rw [h]
  exact ⟨fun _ => rfl, fun _ => rfl⟩

theorem abandon_leaves_of_no_instr (h : ∀ i u, s.fetch ≠ .instr i u) (b : Boundary) :
    (∀ r : Reg, (s.abandon b).gpr r = s.gpr r) ∧ SameMemory s (s.abandon b) := by
  rw [State.abandon_of_no_instr s b h]
  exact ⟨fun _ => rfl, fun _ => rfl⟩

/-! ### The boundary that takes the interrupt -/

/-- A debug function trap that is not requested is not the pending event: every other branch of the order of R415 names
another event. -/
theorem State.pendingEvent_ne_debugTrap (h : s.acknowledges .debugTrap = false) :
    s.pendingEvent ≠ some .debugTrap := by
  intro he
  rw [State.pendingEvent, h] at he
  grind

/-- An interrupt taken from the instruction at the pc. -/
theorem step_of_interrupted (h : s.interrupted) : ∃ e, step s = .next (s.met.enter e s.input) := by
  obtain ⟨hs, hh, hp⟩ := h
  have ⟨_, _, hdebug, _⟩ := hs
  obtain ⟨e, he⟩ := Option.ne_none_iff_exists'.mp hp
  have hd : e ≠ .debugTrap := fun hd => State.pendingEvent_ne_debugTrap hdebug (hd ▸ he)
  have hstep := step_of_sampling s e hs he hd
  rw [hh] at hstep
  exact ⟨e, hstep⟩

/-- Settles O55: the entry moves no general register and no byte, so what is left is what the abandoned instruction has
done. -/
theorem abandonedInstructionsKeepSP : Obligations.AbandonedInstructionsKeepSP := by
  refine ⟨fun s i h => State.fetch_of_holdsCode (State.holdsCode_met h), fun s u i hs hf => ?_, fun s hs hn => ?_⟩
  · obtain ⟨e, he⟩ := step_of_interrupted hs
    exact ⟨_, he, State.gpr_sp_abandon s.met s.input, fun list12 hi => abandon_leaves_of_prepares hf hi s.input,
      fun imm5 list12 hi => abandon_leaves_of_disposes hf hi s.input,
      fun hi => abandon_leaves_of_other hf hi s.input⟩
  · obtain ⟨e, he⟩ := step_of_interrupted hs
    exact ⟨_, he, abandon_leaves_of_no_instr hn s.input⟩

end Sys2Proof.Machine
end

section
/-! Code that has no meaning (spec/20_memory.md R83, R106; spec/30_encoding.md R161): the fetch of it stops the step,
and how the record of stored cells, by which the model knows stale code, moves (O7). -/

namespace Sys2Proof.Machine

variable {s u : State} {i : Instr} {list12 : BitVec 12}

/-! ### Fetches that stop the step -/

/-- A fetch takes the halfwords before the first that may not be executed, and no more. -/
theorem State.fetchHalves_of_stop {n k : Nat} (p c : Nat) (hk : k ≤ n)
    (hbefore : ∀ j < k, usable (c + 2 * j) = true) (hstop : usable (c + 2 * k) = false) :
    s.fetchHalves p c n = s.fetchHalves p c k ∧ (s.fetchHalves p c k).length = k := by
  induction k generalizing n p c with
  | zero =>
    refine ⟨?_, rfl⟩
    cases n with
    | zero => rfl
    | succ n => exact if_neg (by simpa using hstop)
  | succ k ih =>
    obtain ⟨n, rfl⟩ := Nat.exists_eq_succ_of_ne_zero (show n ≠ 0 by omega)
    have next : ∀ j, c + 2 + 2 * j = c + 2 * (j + 1) := by omega
    obtain ⟨heq, hlen⟩ := ih (n := n) (p + 2) (c + 2) (by omega)
      (fun j hj => by rw [next]; exact hbefore (j + 1) (by omega)) (by rw [next]; exact hstop)
    have hc : usable c = true := hbefore 0 (by omega)
    rw [State.fetchHalves, State.fetchHalves, if_pos hc, if_pos hc, heq]
    exact ⟨rfl, by rw [List.length_cons, hlen]⟩

/-- Halfwords that are no instruction. -/
theorem State.fetch_of_undefined {why : Undefined} (hw : why ≠ .truncated)
    (hd : decode (s.fetchHalves 0 s.pc.toNat 4) = .error why) : s.fetch = .refused (.undefinedEncoding why) := by
  cases why with
  | truncated => exact absurd rfl hw
  | _ => simp only [State.fetch, hd]

/-- An instruction that goes on into a range that may not be executed. -/
theorem State.fetch_of_prohibited {k : Nat} (hk : k ≤ 4) (hbefore : ∀ j < k, usable (s.pc.toNat + 2 * j) = true)
    (hstop : usable (s.pc.toNat + 2 * k) = false)
    (hd : decode (s.fetchHalves 0 s.pc.toNat k) = .error .truncated) :
    s.fetch = .fault (.prohibitedFetch (s.pc + BitVec.ofNat 32 (2 * k))) := by
  obtain ⟨heq, hlen⟩ := State.fetchHalves_of_stop (s := s) 0 s.pc.toNat hk hbefore hstop
  simp only [State.fetch, heq, hd, hlen, BitVec.ofNat_add, BitVec.ofNat_toNat, BitVec.setWidth_eq]

/-- A cell that is recorded is found. -/
theorem firstIn_ne_none {cells : List Nat} {c n k : Nat} (hk : k < n) (h : c + k ∈ cells) :
    firstIn cells c n ≠ none := by
  induction n generalizing c k with
  | zero => omega
  | succ n ih =>
    rw [firstIn]
    split
    · exact Option.some_ne_none c
    next hc =>
      cases k with
      | zero => exact absurd h (by simpa using hc)
      | succ k => exact ih (k := k) (by omega) (by rwa [Nat.add_assoc, Nat.add_comm 1])

/-- An instruction one of whose bytes the fetch unit may not have seen. -/
theorem State.fetch_of_unsynced {k : Nat} (hd : decode (s.fetchHalves 0 s.pc.toNat 4) = .ok i) (hk : k < i.length)
    (hu : s.pc.toNat + k ∈ s.unsynced) : ∃ a, s.fetch = .fault (.unsynchronisedFetch a) := by
  obtain ⟨x, hx⟩ := Option.ne_none_iff_exists'.mp (firstIn_ne_none hk hu)
  exact ⟨BitVec.ofNat 32 x, by simp only [State.fetch, hd, hx]⟩

theorem State.runInstr_of_refused {r : Refusal} (h : s.fetch = .refused r) : s.runInstr = .refused r := by
  rw [State.runInstr, h]

theorem State.runInstr_of_fault {f : Fault} (h : s.fetch = .fault f) : s.runInstr = .fault f := by
  rw [State.runInstr, h]

/-! ### The record of stored cells at an event (spec/20_memory.md R106; log 12, log 15) -/

theorem storeAddrs_of_prepares (hi : i.prepares list12) (s : State) :
    storeAddrs i s = s.frameAddrs (listRegs list12).length := by
  obtain ⟨imm5, imm16, imm32, hi⟩ := hi
  simp only [List.mem_cons, List.not_mem_nil, or_false] at hi
  rcases hi with rfl | rfl | rfl | rfl | rfl <;> rfl

/-- The cells that an abandoned PREPARE records: those of the first `4 * n` bytes that PREPARE stores. -/
def AbandonedStore (s : State) (n c : Nat) : Prop :=
  ∃ i u list12, s.fetch = .instr i u ∧ i.prepares list12 ∧
    ∃ a ∈ (storeAddrs i u).take (4 * n), s.product.cell a = c

/-- An instruction that has made no access has recorded nothing. -/
theorem not_abandonedStore_zero (s : State) (c : Nat) : ¬ AbandonedStore s 0 c := by
  rintro ⟨i, u, list12, -, -, a, ha, -⟩
  cases ha

/-- With PREPARE at the pc, these are the cells of the registers stored. -/
theorem abandonedStore_of_prepares (hf : s.fetch = .instr i u) (hi : i.prepares list12) (n c : Nat) :
    AbandonedStore s n c ↔ ∃ a ∈ s.frameAddrs ((listRegs list12).take n).length, s.product.cell a = c := by
  have haddrs : (storeAddrs i u).take (4 * n) = s.frameAddrs ((listRegs list12).take n).length := by
    obtain ⟨d, rfl⟩ := State.fetch_eq hf
    rw [storeAddrs_of_prepares hi, State.take_frameAddrs, List.length_take]
    rfl
  rw [← haddrs]
  constructor
  · rintro ⟨j, v, l, hj, -, ha⟩
    rw [hf] at hj
    cases hj
    exact ha
  · exact fun ha => ⟨i, u, list12, hf, hi, ha⟩

/-- An abandoned instruction that is not PREPARE leaves the record as it was. -/
theorem abandon_unsynced_of_not_prepares (h : ∀ i u list12, s.fetch = .instr i u → ¬ i.prepares list12)
    (b : Boundary) : (s.abandon b).unsynced = s.unsynced := by
  by_cases hf : ∃ i u, s.fetch = .instr i u
  · obtain ⟨i, u, hf⟩ := hf
    by_cases hd : ∃ imm5 list12, i.disposes imm5 list12
    · obtain ⟨imm5, list12, hd⟩ := hd
      obtain ⟨d, h⟩ := State.abandon_of_disposes hf hd b
      rw [h, State.settleEP_eq]
      exact State.popList_unsynced _ _ _
    · obtain ⟨d, h⟩ := State.abandon_of_other hf
        (fun imm5 list12 => ⟨h i u list12 hf, fun hi => hd ⟨imm5, list12, hi⟩⟩) b
      rw [h]
  · rw [State.abandon_of_no_instr s b fun i u hi => hf ⟨i, u, hi⟩]

/-- What an abandoned instruction leaves of the record. -/
theorem mem_unsynced_abandon (s : State) (b : Boundary) (c : Nat) :
    c ∈ (s.abandon b).unsynced ↔ c ∈ s.unsynced ∨ AbandonedStore s b.progress c := by
  by_cases hp : ∃ i u list12, s.fetch = .instr i u ∧ i.prepares list12
  · obtain ⟨i, u, list12, hf, hi⟩ := hp
    obtain ⟨d, h⟩ := State.abandon_of_prepares hf hi b
    rw [h, abandonedStore_of_prepares hf hi]
    exact Records.of_pushList { s with draws := d } ((listRegs list12).take b.progress) c
  · have hnone : ¬ AbandonedStore s b.progress c := fun ⟨i, u, list12, hf, hi, _⟩ => hp ⟨i, u, list12, hf, hi⟩
    rw [abandon_unsynced_of_not_prepares fun i u list12 hf hi => hp ⟨i, u, list12, hf, hi⟩, or_iff_left hnone]

/-- An entry drops the cells of plain RAM, after what the abandoned instruction has recorded. -/
theorem mem_unsynced_enter (s : State) (e : Event) (b : Boundary) (c : Nat) :
    c ∈ (s.enter e b).unsynced ↔ s.product.kindAt c ≠ .ram ∧ (c ∈ s.unsynced ∨ AbandonedStore s b.progress c) := by
  have hu : (s.enter e b).unsynced =
      (s.abandon b).unsynced.filter fun c => (s.abandon b).product.kindAt c != .ram := rfl
  rw [hu, (ordinary_abandon b s).product, List.mem_filter, mem_unsynced_abandon, and_comm, bne_iff_ne]

/-- A debug function trap is taken at once, and what stands at the pc counts as not begun (log 10). -/
theorem step_of_debugTrap (hr : s.input.reset = false) (hp : s.met.pendingEvent = some .debugTrap) :
    step s = .next (s.met.enter .debugTrap {}) := by
  have hreact : s.boundary = s.met.react s.input := rfl
  rw [step, hreact, State.react, hr, hp]
  rfl

/-- The record after an event: a debug function trap and an event in HALT mode abandon no instruction. -/
theorem steps_event_record {e : Event} (hr : s.input.reset = false) (hp : s.met.pendingEvent = some e)
    (he : e = .debugTrap ∨ s.sampling) :
    Steps s fun t => ∀ c : Nat, c ∈ t.unsynced ↔ s.product.kindAt c ≠ .ram ∧
      (c ∈ s.unsynced ∨ e ≠ .debugTrap ∧ s.halted = false ∧ AbandonedStore s.met s.input.progress c) := by
  by_cases hd : e = .debugTrap
  · subst hd
    refine ⟨_, step_of_debugTrap hr hp, fun c => (mem_unsynced_enter s.met _ _ c).trans ?_⟩
    refine and_congr_right' (or_congr_right ?_)
    exact iff_of_false (not_abandonedStore_zero _ c) fun h => h.1 rfl
  · refine ⟨_, step_of_sampling s e (he.resolve_left hd) hp hd, fun c => (mem_unsynced_enter s.met _ _ c).trans ?_⟩
    refine and_congr_right' (or_congr_right ?_)
    cases s.halted with
    | false => simp [hd]
    | true => exact iff_of_false (not_abandonedStore_zero _ c) fun h => Bool.false_ne_true h.2.1.symm

/-- Settles O7: each unusable fetch stops the step, an instruction's access moves the record, and so does the entry of
an event. -/
theorem stepStopsAtUnusableCode : Obligations.StepStopsAtUnusableCode := by
  refine ⟨fun s hs => ?_, fun i s t h => ?_, fun s e => steps_event_record⟩
  · rw [step_of_executing s hs]
    refine ⟨fun why hw hd => ?_, fun k hk hbefore hstop hd => ?_, fun i k hd hk hu => ?_⟩
    · exact State.runInstr_of_refused (State.fetch_of_undefined hw hd)
    · exact State.runInstr_of_fault (State.fetch_of_prohibited (s := s.met) (by omega) hbefore hstop hd)
    · obtain ⟨a, ha⟩ := State.fetch_of_unsynced hd hk hu
      exact ⟨a, State.runInstr_of_fault ha⟩
  · cases exec_access h with
    | kept haddrs hc hm hu =>
      refine ⟨fun _ c => by rw [hu, haddrs]; simp, fun h => ?_⟩
      cases h.symm.trans hc
    | transfer hc hm hu =>
      refine ⟨fun h => ?_, fun _ c => by rw [hu, List.mem_filter, bne_iff_ne]⟩
      cases h.symm.trans hc
    | store hi hc hu =>
      refine ⟨fun _ => hu, fun h => ?_⟩
      cases h.symm.trans hc

end Sys2Proof.Machine
end

section
/-! Encoding what was decoded (spec/30_encoding.md R120 to R165): a halfword is put together from its fields again, so
each cell of the decoder reads back (O1, O2), and so does every word of the illegal pattern (O5). -/

namespace Sys2Proof

section Reassembly

variable {h h1 : Half}

/-! ### A halfword is its fields put together -/

/-- A field of width 1 is its bit. -/
theorem extract_one {n : Nat} (w : BitVec n) (k : Nat) : w.extractLsb' k 1 = BitVec.ofBool (w.getLsbD k) := by
  apply BitVec.eq_of_getLsbD_eq
  intro i hi
  obtain rfl : i = 0 := by omega
  simp

theorem extract_of_clear {n k : Nat} {w : BitVec n} (hk : w.getLsbD k = false) : w.extractLsb' k 1 = 0#1 := by
  rw [extract_one, hk]; rfl

/-- The two parts of a field at the bottom of a halfword. -/
theorem split_low {n : Nat} (w : BitVec n) (k len : Nat) :
    w.extractLsb' k len ++ w.extractLsb' 0 k = w.extractLsb' 0 (len + k) :=
  BitVec.extractLsb'_append_extractLsb'_eq_extractLsb' (Nat.zero_add k).symm

theorem opcode6_of_cell {row : BitVec 4} {col : BitVec 2} (hr : rowOf h = row) (hc : colOf h = col) :
    h.extractLsb' 5 6 = row ++ col := by
  rw [← hr, ← hc, rowOf, colOf]
  simp only [BitVec.extractLsb'_append_extractLsb'_eq_extractLsb']

theorem opcode5_of_cell {row : BitVec 4} {col : BitVec 2} (hr : rowOf h = row) (hc : colOf h = col) :
    h.extractLsb' 6 5 = row ++ col.extractLsb' 1 1 := by
  have hbit : (colOf h).extractLsb' 1 1 = h.extractLsb' 6 1 := by simp [extract_one, colOf]
  rw [← hr, ← hc, hbit, rowOf]
  simp only [BitVec.extractLsb'_append_extractLsb'_eq_extractLsb']

theorem fmtI_of_opcode {op : BitVec 6} {r2 r1 : Reg} (ho : h.extractLsb' 5 6 = op) (h2 : reg2Of h = r2)
    (h1 : reg1Of h = r1) : fmtI r2 op r1 = h := by
  rw [fmtI, ← ho, ← h2, ← h1, reg2Of, reg1Of]
  simp only [BitVec.extractLsb'_append_extractLsb'_eq_extractLsb', BitVec.extractLsb'_eq_self]

/-- The cell of the opcode map and the two register fields are the whole of a halfword. -/
theorem fmtI_of_cell {row : BitVec 4} {col : BitVec 2} {op : BitVec 6} {r2 r1 : Reg} (hr : rowOf h = row)
    (hc : colOf h = col) (h2 : reg2Of h = r2) (h1 : reg1Of h = r1) (ho : row ++ col = op := by rfl) :
    fmtI r2 op r1 = h :=
  fmtI_of_opcode ((opcode6_of_cell hr hc).trans ho) h2 h1

theorem fmtIII_of_row (hr : rowOf h = 0b1011#4) : fmtIII (disp9Of h) (h.extractLsb' 0 4) = h := by
  have hhigh : (disp9Of h).extractLsb' 4 5 = h.extractLsb' 11 5 := by
    rw [disp9Of, extract_append_high _ _ _ _ (by decide), extract_append_high _ _ _ _ (by decide)]
    simp
  have hmid : (disp9Of h).extractLsb' 1 3 = h.extractLsb' 4 3 := by
    rw [disp9Of, extract_append_high _ _ _ _ (by decide), extract_append_low _ _ _ _ (by decide)]
    simp
  rw [fmtIII, ← hr, hhigh, hmid, rowOf]
  simp only [BitVec.extractLsb'_append_extractLsb'_eq_extractLsb', BitVec.extractLsb'_eq_self]

theorem fmtIV_of_row {row : BitVec 4} (hr : rowOf h = row) : fmtIV (reg2Of h) row (h.extractLsb' 0 7) = h := by
  rw [fmtIV, ← hr, reg2Of, rowOf]
  simp only [BitVec.extractLsb'_append_extractLsb'_eq_extractLsb', BitVec.extractLsb'_eq_self]

theorem fmtV_of_opcode {r2 : Reg} (ho : h.extractLsb' 6 5 = 0b11110#5) (h2 : reg2Of h = r2) :
    fmtV r2 (h.extractLsb' 0 6) = h := by
  rw [fmtV, ← ho, ← h2, reg2Of]
  simp only [BitVec.extractLsb'_append_extractLsb'_eq_extractLsb', BitVec.extractLsb'_eq_self]

theorem fmtVIII_of_opcode {sub : BitVec 2} (ho : h.extractLsb' 5 6 = 0b111110#6) (hs : h.extractLsb' 14 2 = sub) :
    fmtVIII sub (h.extractLsb' 11 3) (reg1Of h) = h := by
  rw [fmtVIII, ← ho, ← hs, reg1Of]
  simp only [BitVec.extractLsb'_append_extractLsb'_eq_extractLsb', BitVec.extractLsb'_eq_self]

/-! ### Second halfwords -/

theorem dispHalf_of_bit {b : Bool} (hb : h1.getLsbD 0 = b) :
    dispHalf (h1.extractLsb' 1 15) (BitVec.ofBool b) = h1 := by
  rw [dispHalf, ← hb, ← extract_one]
  simp only [BitVec.extractLsb'_append_extractLsb'_eq_extractLsb', BitVec.extractLsb'_eq_self]

theorem dispHalf_evenDisp16Of {b : Bool} (hb : h1.getLsbD 0 = b) :
    dispHalf ((evenDisp16Of h1).extractLsb' 1 15) (BitVec.ofBool b) = h1 := by
  rw [evenDisp16Of, BitVec.extractLsb'_append_eq_left, dispHalf_of_bit hb]

/-- The cell of expansion 1, reg3 and the sub-opcode are the whole of a second halfword. -/
theorem fmtXI_of_cell {row : BitVec 4} {col : BitVec 2} {low : BitVec 5} {sub : BitVec 11} (hr : rowOf h1 = row)
    (hc : colOf h1 = col) (hs : subOf h1 = low) (ho : row ++ col ++ low = sub := by rfl) :
    fmtXI (reg3Of h1) sub = h1 := by
  rw [fmtXI, ← ho, ← hr, ← hc, ← hs, reg3Of, rowOf, colOf, subOf]
  simp only [BitVec.extractLsb'_append_extractLsb'_eq_extractLsb', BitVec.extractLsb'_eq_self]

/-- Bit 16 = 0 is the last of expansion 1's fields (R159). -/
theorem extract_low_of_even (h0 : h1.getLsbD 0 = false) (n : Nat) :
    h1.extractLsb' 0 (n + 1) = h1.extractLsb' 1 n ++ 0#1 := by
  rw [← extract_of_clear h0, split_low]

theorem fmtXIIcmov_of_cell {sub : BitVec 6} {c : BitVec 4} (ho : h1.extractLsb' 5 6 = sub)
    (hc : h1.extractLsb' 1 4 = c) (h0 : h1.getLsbD 0 = false) : fmtXIIcmov (reg3Of h1) sub c = h1 := by
  rw [fmtXIIcmov, ← ho, ← hc, ← extract_of_clear h0, reg3Of]
  simp only [BitVec.extractLsb'_append_extractLsb'_eq_extractLsb', BitVec.extractLsb'_eq_self]

theorem fmtXIImul_of_opcode {b : Bool} (ho : h1.extractLsb' 6 5 = 0b01001#5) (hb : h1.getLsbD 1 = b)
    (h0 : h1.getLsbD 0 = false) :
    fmtXIImul (reg3Of h1) (h1.extractLsb' 2 4) (BitVec.ofBool b ++ 0#1) = h1 := by
  have hs : h1.extractLsb' 0 2 = BitVec.ofBool b ++ 0#1 := by
    rw [extract_low_of_even h0, extract_one, hb]
  rw [fmtXIImul, ← ho, ← hs, reg3Of]
  simp only [BitVec.extractLsb'_append_extractLsb'_eq_extractLsb', BitVec.extractLsb'_eq_self]

theorem illegalHighHalf_of_bits (h10 : h1.getLsbD 10 = true) (h0 : h1.getLsbD 0 = false) :
    illegalHighHalf (reg3Of h1) (h1.extractLsb' 7 3) (h1.extractLsb' 1 6) = h1 := by
  have ha : h1.extractLsb' 10 1 = 1#1 := by rw [extract_one, h10]; rfl
  rw [illegalHighHalf, ← ha, ← extract_of_clear h0, reg3Of]
  simp only [BitVec.extractLsb'_append_extractLsb'_eq_extractLsb', BitVec.extractLsb'_eq_self]

theorem illegalSevenHalf_of_row (hr : rowOf h1 = 0b0111#4) (h0 : h1.getLsbD 0 = false) :
    illegalSevenHalf (reg3Of h1) (h1.extractLsb' 1 6) = h1 := by
  rw [illegalSevenHalf, ← hr, ← extract_of_clear h0, reg3Of, rowOf]
  simp only [BitVec.extractLsb'_append_extractLsb'_eq_extractLsb', BitVec.extractLsb'_eq_self]

/-! ### Register lists and split immediates (R140 to R142) -/

theorem listHigh_listOf : listHigh (listOf h h1) = h1.extractLsb' 5 11 := by
  apply BitVec.eq_of_getLsbD_eq
  intro i hi
  interval_cases i <;> simp [listHigh, listOf, BitVec.ofBoolListLE]

theorem fmtXIIIlow_of_opcode {op : BitVec 5} (ho : h.extractLsb' 6 5 = op) (h2 : reg2Of h = 0#5) :
    fmtXIIIlow op (stackImmOf h) (listOf h h1) = h := by
  have hb : (listOf h h1).extractLsb' 10 1 = h.extractLsb' 0 1 := by
    simp [extract_one, listOf, BitVec.ofBoolListLE]
  rw [fmtXIIIlow, ← ho, ← h2, hb, reg2Of, stackImmOf]
  simp only [BitVec.extractLsb'_append_extractLsb'_eq_extractLsb', BitVec.extractLsb'_eq_self]

theorem fmtXIIIhigh_listOf {low : BitVec 5} (hs : subOf h1 = low) : fmtXIIIhigh (listOf h h1) low = h1 := by
  rw [fmtXIIIhigh, listHigh_listOf, ← hs, subOf]
  simp only [BitVec.extractLsb'_append_extractLsb'_eq_extractLsb', BitVec.extractLsb'_eq_self]

theorem disp22Of_high : (disp22Of h h1).extractLsb' 16 6 = h.extractLsb' 0 6 := by
  rw [disp22Of, extract_append_high _ _ _ _ (by decide), extract_append_high _ _ _ _ (by decide)]
  simp

theorem disp22Of_low : (disp22Of h h1).extractLsb' 1 15 = h1.extractLsb' 1 15 := by
  rw [disp22Of, extract_append_high _ _ _ _ (by decide), extract_append_low _ _ _ _ (by decide)]
  simp

theorem evenDisp_append {n : Nat} (d : BitVec n) : evenDisp (d ++ 0#1) = true := by
  rw [evenDisp, bit_append_low _ _ _ (by decide)]; rfl

theorem wordDisp_append {n : Nat} (d : BitVec n) : wordDisp (d ++ 0#2) = true := by
  rw [wordDisp, bit_append_low _ _ _ (by decide), bit_append_low _ _ _ (by decide)]; rfl

end Reassembly


/-! ### What a decoder answers -/

/-- What a decoder answers reads back: if it is an instruction, that is well formed and the halfwords begin with its
encoding. -/
def ReadsBack (halves : List Half) (answer : Except Undefined Instr) : Prop :=
  ∀ i, answer = .ok i → i.wf = true ∧ encode i <+: halves

section Answers

variable {h h1 w w1 : Half} {more halves : List Half} {i : Instr}

theorem ReadsBack.error (why : Undefined) : ReadsBack halves (.error why) := nofun

theorem ReadsBack.ok (hwf : i.wf = true) (he : encode i <+: halves) : ReadsBack halves (.ok i) := fun _ e => by
  cases e; exact ⟨hwf, he⟩

/-- An instruction of one halfword. -/
theorem ReadsBack.one (hwf : i.wf = true) (he : encode i = [w]) (hw : w = h) : ReadsBack (h :: more) (.ok i) :=
  .ok hwf ⟨more, by rw [he, hw]; rfl⟩

/-- An instruction of two halfwords. -/
theorem ReadsBack.two (hwf : i.wf = true) (he : encode i = [w, w1]) (hw : w = h) (hw1 : w1 = h1) :
    ReadsBack (h :: h1 :: more) (.ok i) :=
  .ok hwf ⟨more, by rw [he, hw, hw1]; rfl⟩

theorem ReadsBack.ite {c : Prop} [Decidable c] {x y : Except Undefined Instr} (ht : c → ReadsBack halves x)
    (hf : ¬ c → ReadsBack halves y) : ReadsBack halves (if c then x else y) := by
  split
  case isTrue hc => exact ht hc
  case isFalse hc => exact hf hc

theorem colOf_cases (h : Half) : colOf h = 0b00#2 ∨ colOf h = 0b01#2 ∨ colOf h = 0b10#2 ∨ colOf h = 0b11#2 := by
  generalize colOf h = c
  revert c; decide

/-! ### Instructions of one halfword -/

theorem decodeRow0_readsBack (hr : rowOf h = 0b0000#4) : ReadsBack (h :: more) (decodeRow0 h) := by
  rcases colOf_cases h with hc | hc | hc | hc <;> simp only [decodeRow0, hc]
  · refine .ite (fun hz => .one rfl rfl hz.symm) fun hz => .one ?_ rfl (fmtI_of_cell hr hc rfl rfl)
    have hne : ¬ (reg1Of h = 0#5 ∧ reg2Of h = 0#5) := fun ⟨h1, h2⟩ =>
      hz (fmtI_of_cell (op := 0b000000#6) hr hc h2 h1).symm
    simpa [Instr.wf, nonZero, imp_iff_not_or] using hne
  · exact .one rfl rfl (fmtI_of_cell hr hc rfl rfl)
  · refine .ite (fun h1 => .ite (fun h2 => ?_) fun _ => .error _) fun h1 => ?_
    · exact .one rfl rfl (fmtI_of_cell (op := 0b000010#6) hr hc h2 h1)
    exact .ite (fun h2 => .one (nonZero_iff.mpr h1) rfl (fmtI_of_cell hr hc h2 rfl)) fun h2 =>
      .one (Bool.and_eq_true_iff.mpr ⟨nonZero_iff.mpr h1, nonZero_iff.mpr h2⟩) rfl (fmtI_of_cell hr hc rfl rfl)
  · have hlow : reg1Of h = BitVec.ofBool (h.getLsbD 4) ++ h.extractLsb' 0 4 := by
      rw [← extract_one]
      exact (split_low h 4 1).symm
    refine .ite (fun h2 => .one rfl rfl (fmtI_of_cell hr hc h2 rfl)) fun h2 => .ite (fun h4 => ?_) fun h4 => ?_
    · refine .one (Bool.and_eq_true_iff.mpr ⟨evenDisp_append _, nonZero_iff.mpr h2⟩) rfl (fmtI_of_cell hr hc rfl ?_)
      rw [hlow, h4, BitVec.extractLsb'_append_eq_left]; rfl
    · refine .one (nonZero_iff.mpr h2) rfl (fmtI_of_cell hr hc rfl ?_)
      rw [hlow, Bool.eq_false_of_not_eq_true h4]; rfl

theorem decodeRow1_readsBack (hr : rowOf h = 0b0001#4) : ReadsBack (h :: more) (decodeRow1 h) := by
  rcases colOf_cases h with hc | hc | hc | hc <;> simp only [decodeRow1, hc]
  all_goals
    exact .ite (fun h2 => .one rfl rfl (fmtI_of_cell hr hc h2 rfl))
      fun h2 => .one (nonZero_iff.mpr h2) rfl (fmtI_of_cell hr hc rfl rfl)

theorem decodeRow2_readsBack (hr : rowOf h = 0b0010#4) : ReadsBack (h :: more) (decodeRow2 h) := by
  rcases colOf_cases h with hc | hc | hc | hc <;> simp only [decodeRow2, hc]
  all_goals exact .one rfl rfl (fmtI_of_cell hr hc rfl rfl)

theorem decodeRow3_readsBack (hr : rowOf h = 0b0011#4) : ReadsBack (h :: more) (decodeRow3 h) := by
  rcases colOf_cases h with hc | hc | hc | hc <;> simp only [decodeRow3, hc]
  all_goals exact .one rfl rfl (fmtI_of_cell hr hc rfl rfl)

/-- CALLT's immediate lies across the opcode and the field of reg1 (R155). -/
theorem encode_callt_of_opcode (ho : h.extractLsb' 6 5 = 0b01000#5) (h2 : reg2Of h = 0#5) :
    encode (.callt (h.extractLsb' 0 6)) = [h] := by
  have hhigh : h.extractLsb' 6 10 = 0b0000001000#10 := by
    have he : reg2Of h ++ h.extractLsb' 6 5 = h.extractLsb' 6 10 :=
      BitVec.extractLsb'_append_extractLsb'_eq_extractLsb' rfl
    rw [← he, h2, ho]; rfl
  rw [encode, fmtI_callt, ← hhigh]
  exact congrArg ([·]) (split_at (m := 10) (k := 6) h)

theorem decodeRow4_readsBack (hr : rowOf h = 0b0100#4) : ReadsBack (h :: more) (decodeRow4 h) := by
  rcases colOf_cases h with hc | hc | hc | hc <;> simp only [decodeRow4, hc]
  · exact .ite (fun h2 => .one rfl (encode_callt_of_opcode (by rw [opcode5_of_cell hr hc]; rfl) h2) rfl)
      fun h2 => .one (nonZero_iff.mpr h2) rfl (fmtI_of_cell hr hc rfl rfl)
  · exact .ite (fun h2 => .one rfl (encode_callt_of_opcode (by rw [opcode5_of_cell hr hc]; rfl) h2) rfl)
      fun h2 => .one (nonZero_iff.mpr h2) rfl (fmtI_of_cell hr hc rfl rfl)
  all_goals exact .one rfl rfl (fmtI_of_cell hr hc rfl rfl)

theorem decodeRow5_readsBack (hr : rowOf h = 0b0101#4) : ReadsBack (h :: more) (decodeRow5 h) := by
  rcases colOf_cases h with hc | hc | hc | hc <;> simp only [decodeRow5, hc]
  case inr.inr.inr =>
    exact .ite (fun _ => .error _) fun h2 => .one (nonZero_iff.mpr h2) rfl (fmtI_of_cell hr hc rfl rfl)
  all_goals exact .one rfl rfl (fmtI_of_cell hr hc rfl rfl)

theorem decodeRow10_readsBack (hr : rowOf h = 0b1010#4) : ReadsBack (h :: more) (decodeRow10 h) := by
  have hlow : h.extractLsb' 0 7 = h.extractLsb' 1 6 ++ BitVec.ofBool (h.getLsbD 0) := by
    rw [← extract_one]
    exact (split_low h 1 6).symm
  have hh := fmtIV_of_row hr
  refine .ite (fun h0 => .one (wordDisp_append _) rfl ?_) fun h0 => .one (wordDisp_append _) rfl ?_
  · rw [hlow, h0] at hh
    rw [BitVec.extractLsb'_append_eq_left]; exact hh
  · rw [hlow, Bool.eq_false_of_not_eq_true h0] at hh
    rw [BitVec.extractLsb'_append_eq_left]; exact hh

/-! ### Longer instructions -/

theorem decodeDispose_readsBack (ho : h.extractLsb' 6 5 = 0b11001#5) (h2 : reg2Of h = 0#5) :
    ReadsBack (h :: h1 :: more) (decodeDispose h h1) :=
  .ite (fun hs => .two rfl rfl (fmtXIIIlow_of_opcode ho h2) (fmtXIIIhigh_listOf hs))
    fun hs => .two (nonZero_iff.mpr hs) rfl (fmtXIIIlow_of_opcode ho h2) (fmtXIIIhigh_listOf rfl)

theorem decodeRow12_readsBack (hr : rowOf h = 0b1100#4) : ReadsBack (h :: h1 :: more) (decodeRow12 h h1 more) := by
  rcases colOf_cases h with hc | hc | hc | hc <;> simp only [decodeRow12, hc]
  · exact .two rfl rfl (fmtI_of_cell hr hc rfl rfl) rfl
  · refine .ite (fun h2 => ?_) fun h2 => .two (nonZero_iff.mpr h2) rfl (fmtI_of_cell hr hc rfl rfl) rfl
    cases more with
    | nil => exact .error _
    | cons w more =>
      have hh : fmtI 0#5 0b110001#6 (reg1Of h) = h := fmtI_of_cell hr hc h2 rfl
      refine .ok rfl ⟨more, ?_⟩
      rw [encode, hh, BitVec.extractLsb'_append_eq_left, BitVec.extractLsb'_append_eq_right]
      rfl
  all_goals
    exact .ite (fun h2 => decodeDispose_readsBack (by rw [opcode5_of_cell hr hc]; rfl) h2)
      fun h2 => .two (nonZero_iff.mpr h2) rfl (fmtI_of_cell hr hc rfl rfl) rfl

theorem decodeRow13_readsBack (hr : rowOf h = 0b1101#4) : ReadsBack (h :: h1 :: more) (decodeRow13 h h1) := by
  rcases colOf_cases h with hc | hc | hc | hc <;> simp only [decodeRow13, hc]
  case inr.inr.inr =>
    exact .ite (fun _ => .error _) fun h2 => .two (nonZero_iff.mpr h2) rfl (fmtI_of_cell hr hc rfl rfl) rfl
  all_goals exact .two rfl rfl (fmtI_of_cell hr hc rfl rfl) rfl

theorem decodeRow14_readsBack (hr : rowOf h = 0b1110#4) : ReadsBack (h :: h1 :: more) (decodeRow14 h h1) := by
  rcases colOf_cases h with hc | hc | hc | hc <;> simp only [decodeRow14, hc]
  case inl | inr.inr.inl => exact .two rfl rfl (fmtI_of_cell hr hc rfl rfl) rfl
  all_goals
    exact .ite (fun h0 => .two (evenDisp_append _) rfl (fmtI_of_cell hr hc rfl rfl) (dispHalf_evenDisp16Of h0))
      fun h0 => .two (evenDisp_append _) rfl (fmtI_of_cell hr hc rfl rfl)
        (dispHalf_evenDisp16Of (Bool.eq_false_of_not_eq_true h0))

theorem decodePrepare_readsBack (ho : h.extractLsb' 6 5 = 0b11110#5) (h2 : reg2Of h = 0#5) :
    ReadsBack (h :: h1 :: more) (decodePrepare h h1 more) := by
  have hlow : fmtXIIIlow 0b11110#5 (stackImmOf h) (listOf h h1) = h := fmtXIIIlow_of_opcode ho h2
  unfold decodePrepare
  split
  case h_1 hs | h_2 hs => exact .two rfl rfl hlow (fmtXIIIhigh_listOf hs)
  case h_3 hs | h_4 hs =>
    split
    · exact .ok rfl ⟨_, by rw [encode, hlow, fmtXIIIhigh_listOf hs]; rfl⟩
    · exact .error _
  case h_5 hs =>
    split
    · next h2 h3 rest =>
      refine .ok rfl ⟨rest, ?_⟩
      rw [encode, hlow, fmtXIIIhigh_listOf hs, BitVec.extractLsb'_append_eq_left, BitVec.extractLsb'_append_eq_right]
      rfl
    · exact .error _
  case h_6 => exact .error _

theorem decodeJump_readsBack (ho : h.extractLsb' 6 5 = 0b11110#5) :
    ReadsBack (h :: h1 :: more) (decodeJump h h1 more) := by
  have hV : ∀ {r2 : Reg}, reg2Of h = r2 → fmtV r2 ((disp22Of h h1).extractLsb' 16 6) = h := fun h2 => by
    rw [disp22Of_high, fmtV_of_opcode ho h2]
  refine .ite (fun h0 => .ite (fun h2 => decodePrepare_readsBack ho h2) fun h2 => ?_) fun h0 => ?_
  · refine .two (nonZero_iff.mpr h2) rfl ?_ ?_
    · rw [BitVec.extractLsb'_append_eq_right, reg1Of, split_low]
      exact fmtV_of_opcode ho rfl
    · rw [BitVec.extractLsb'_append_eq_left]; exact dispHalf_of_bit h0
  · have hD : dispHalf ((disp22Of h h1).extractLsb' 1 15) 0#1 = h1 := by
      rw [disp22Of_low]; exact dispHalf_of_bit (Bool.eq_false_of_not_eq_true h0)
    exact .ite (fun h2 => .two (evenDisp_append _) rfl (hV h2) hD)
      fun h2 => .two (Bool.and_eq_true_iff.mpr ⟨evenDisp_append _, nonZero_iff.mpr h2⟩) rfl (hV rfl) hD

theorem decodeBit1_readsBack (ho : h.extractLsb' 5 6 = 0b111110#6) :
    ReadsBack (h :: h1 :: more) (decodeBit1 h h1) := by
  unfold decodeBit1
  split
  case h_1 hs | h_2 hs | h_3 hs => exact .two rfl rfl (fmtVIII_of_opcode ho hs) rfl
  case h_4 =>
    refine .two rfl rfl (fmtVIII_of_opcode ho ?_) rfl
    generalize h.extractLsb' 14 2 = sub at *
    revert sub; decide

/-! ### Expansion 1 (R159) -/

section Expansion

variable (ho : h.extractLsb' 5 6 = 0b111111#6)
include ho

/-- The condition codes of SETF and SASF fill the field of reg1 where bit 4 is 0 (R144). -/
theorem fmtI_cond (h4 : h.getLsbD 4 = false) :
    fmtI (reg2Of h) 0b111111#6 (0#1 ++ (Cond.ofBits (h.extractLsb' 0 4)).toBits) = h := by
  rw [Cond.toBits_ofBits, ← extract_of_clear h4, split_low]
  exact fmtI_of_opcode ho rfl rfl

theorem expandRow0_readsBack : ReadsBack (h :: h1 :: more) (expandRow0 h h1) := by
  unfold expandRow0
  split
  case h_1 =>
    refine .ite (fun _ => .error _) fun e => .ite (fun _ => .error _) fun h4 => ?_
    exact .two rfl rfl (fmtI_cond ho (Bool.eq_false_of_not_eq_true h4)) (not_not.mp e).symm
  case h_2 | h_3 => exact .ite (fun e => .two rfl rfl (fmtI_of_opcode ho rfl rfl) e.symm) fun _ => .error _
  case h_4 => exact .error _

theorem expandRow1_readsBack : ReadsBack (h :: h1 :: more) (expandRow1 h h1) := by
  have hh : fmtI (reg2Of h) 0b111111#6 (reg1Of h) = h := fmtI_of_opcode ho rfl rfl
  unfold expandRow1
  split
  case h_4 =>
    refine .ite (fun e => .two rfl rfl hh e.symm) fun _ => .ite (fun e => .two rfl rfl hh e.symm) fun _ => ?_
    exact .ite (fun e => .two rfl rfl hh e.symm) fun _ => .ite (fun e => .two rfl rfl hh e.symm) fun _ => .error _
  all_goals exact .ite (fun e => .two rfl rfl hh e.symm) fun _ => .error _

theorem expandRow2_readsBack : ReadsBack (h :: h1 :: more) (expandRow2 h h1) := by
  unfold expandRow2
  split
  case h_1 => exact .ite (fun ⟨e, h2⟩ => .two rfl rfl (fmtI_of_opcode ho h2 rfl) e.symm) fun _ => .error _
  case h_2 => exact .ite (fun ⟨e1, e⟩ => .two rfl rfl e.symm e1.symm) fun _ => .error _
  case h_3 =>
    refine .ite (fun _ => .error _) fun e => ?_
    have e := not_not.mp e
    refine .ite (fun e1 => .two rfl rfl e.symm e1.symm) fun _ => .ite (fun _ => .error _) fun _ => ?_
    refine .ite (fun e1 => .two rfl rfl e.symm e1.symm) fun _ => ?_
    exact .ite (fun e1 => .two rfl rfl e.symm e1.symm) fun _ => .error _
  case h_4 =>
    refine .ite (fun _ => .error _) fun e1 => ?_
    have e1 := not_not.mp e1
    refine .ite (fun e => .two rfl rfl e.symm e1.symm) fun _ => ?_
    exact .ite (fun e => .two rfl rfl e.symm e1.symm) fun _ => .error _

/-- The two parts of imm9 (R132). -/
theorem mulImm9_halves {b : Bool} (h6 : h1.extractLsb' 6 5 = 0b01001#5) (h0 : h1.getLsbD 0 = false)
    (hb : h1.getLsbD 1 = b) :
    fmtI (reg2Of h) 0b111111#6 ((imm9Of h h1).extractLsb' 0 5) = h ∧
      fmtXIImul (reg3Of h1) ((imm9Of h h1).extractLsb' 5 4) (BitVec.ofBool b ++ 0#1) = h1 := by
  rw [imm9Of, BitVec.extractLsb'_append_eq_left, BitVec.extractLsb'_append_eq_right]
  exact ⟨fmtI_of_opcode ho rfl rfl, fmtXIImul_of_opcode h6 hb h0⟩

theorem expandRow4_readsBack (hr : rowOf h1 = 0b0100#4) (h0 : h1.getLsbD 0 = false) :
    ReadsBack (h :: h1 :: more) (expandRow4 h h1) := by
  have hh : fmtI (reg2Of h) 0b111111#6 (reg1Of h) = h := fmtI_of_opcode ho rfl rfl
  rcases colOf_cases h1 with hc | hc | hc | hc <;> simp only [expandRow4, hc]
  case inl =>
    refine .ite (fun _ => .error _) fun e => .ite (fun _ => .error _) fun h4 => ?_
    exact .two rfl rfl (fmtI_cond ho (Bool.eq_false_of_not_eq_true h4)) (not_not.mp e).symm
  case inr.inl =>
    exact .ite (fun hs => .two rfl rfl hh (fmtXI_of_cell hr hc hs)) fun _ =>
      .ite (fun hs => .two rfl rfl hh (fmtXI_of_cell hr hc hs)) fun _ => .error _
  all_goals
    have h6 : h1.extractLsb' 6 5 = 0b01001#5 := by rw [opcode5_of_cell hr hc]; rfl
    refine .ite (fun hb => ?_) fun hb => ?_
    · obtain ⟨e, e1⟩ := mulImm9_halves ho h6 h0 hb
      exact .two rfl rfl e e1
    · obtain ⟨e, e1⟩ := mulImm9_halves ho h6 h0 (Bool.eq_false_of_not_eq_true hb)
      exact .two rfl rfl e e1

theorem expandRow5_readsBack (hr : rowOf h1 = 0b0101#4) : ReadsBack (h :: h1 :: more) (expandRow5 h h1) := by
  have hh : fmtI (reg2Of h) 0b111111#6 (reg1Of h) = h := fmtI_of_opcode ho rfl rfl
  unfold expandRow5
  split
  case h_1 hc | h_2 hc =>
    exact .ite (fun hs => .two rfl rfl hh (fmtXI_of_cell hr hc hs)) fun _ =>
      .ite (fun hs => .two rfl rfl hh (fmtXI_of_cell hr hc hs)) fun _ => .error _
  case h_3 => exact .error _

theorem expandRow6_readsBack (hr : rowOf h1 = 0b0110#4) (h0 : h1.getLsbD 0 = false) :
    ReadsBack (h :: h1 :: more) (expandRow6 h h1) := by
  unfold expandRow6
  split
  case h_1 hc | h_2 hc =>
    refine .two rfl rfl (fmtI_of_opcode ho rfl rfl) (fmtXIIcmov_of_cell ?_ (Cond.toBits_ofBits _).symm h0)
    rw [opcode6_of_cell hr hc]; rfl
  case h_3 hc =>
    refine .ite (fun _ => .error _) fun e => ?_
    have hh : fmtI (reg2Of h) 0b111111#6 0#5 = h := fmtI_of_opcode ho rfl (not_not.mp e)
    refine .ite (fun hs => .two rfl rfl hh (fmtXI_of_cell hr hc hs)) fun _ => ?_
    refine .ite (fun hs => .two rfl rfl hh (fmtXI_of_cell hr hc hs)) fun _ => ?_
    exact .ite (fun hs => .two rfl rfl hh (fmtXI_of_cell hr hc hs)) fun _ =>
      .ite (fun _ => .error _) fun _ => .error _
  case h_4 => exact .error _

theorem decodeExpansion_readsBack (h0 : h1.getLsbD 0 = false) :
    ReadsBack (h :: h1 :: more) (decodeExpansion h h1) := by
  have hh : fmtI (reg2Of h) 0b111111#6 (reg1Of h) = h := fmtI_of_opcode ho rfl rfl
  unfold decodeExpansion
  split
  case h_1 => exact expandRow0_readsBack ho
  case h_2 => exact expandRow1_readsBack ho
  case h_3 => exact expandRow2_readsBack ho
  case h_4 => exact .error _
  case h_5 hr => exact expandRow4_readsBack ho hr h0
  case h_6 hr => exact expandRow5_readsBack ho hr
  case h_7 hr => exact expandRow6_readsBack ho hr h0
  case h_8 hr => exact .two rfl rfl hh (illegalSevenHalf_of_row hr h0)
  case h_9 =>
    have hb : (rowOf h1).getLsbD 3 = true := by
      generalize rowOf h1 = r at *
      revert r; decide
    rw [rowOf, BitVec.getLsbD_extractLsb'] at hb
    exact .two rfl rfl hh (illegalHighHalf_of_bits hb h0)

end Expansion

/-! ### The whole map (R150) -/

theorem decodeRow15_readsBack (hr : rowOf h = 0b1111#4) : ReadsBack (h :: h1 :: more) (decodeRow15 h h1 more) := by
  rcases colOf_cases h with hc | hc | hc | hc <;> simp only [decodeRow15, hc]
  case inl | inr.inl => exact decodeJump_readsBack (by rw [opcode5_of_cell hr hc]; rfl)
  case inr.inr.inl => exact decodeBit1_readsBack (by rw [opcode6_of_cell hr hc]; rfl)
  case inr.inr.inr =>
    refine .ite (fun h0 => .ite (fun _ => .error _) fun h2 => ?_) fun h0 => ?_
    · exact .two (Bool.and_eq_true_iff.mpr ⟨evenDisp_append _, nonZero_iff.mpr h2⟩) rfl
        (fmtI_of_cell hr hc rfl rfl) (dispHalf_evenDisp16Of h0)
    · exact decodeExpansion_readsBack (by rw [opcode6_of_cell hr hc]; rfl) (Bool.eq_false_of_not_eq_true h0)

/-- Bits 10..9 = 11b make an instruction longer than a halfword (R135). -/
theorem decodeLong_readsBack (hl : 12 ≤ (rowOf h).toNat) : ReadsBack (h :: h1 :: more) (decodeLong h h1 more) := by
  unfold decodeLong
  split
  case h_1 hr => exact decodeRow12_readsBack hr
  case h_2 hr => exact decodeRow13_readsBack hr
  case h_3 hr => exact decodeRow14_readsBack hr
  case h_4 =>
    refine decodeRow15_readsBack ?_
    generalize rowOf h = r at *
    revert r; decide

/-- Whatever the halfwords, what they decode to is well formed and encoded by them. -/
theorem decode_readsBack (halves : List Half) : ReadsBack halves (decode halves) := by
  cases halves with
  | nil => exact .error _
  | cons h rest =>
    unfold decode
    dsimp only
    split
    case h_1 hr => exact decodeRow0_readsBack hr
    case h_2 hr => exact decodeRow1_readsBack hr
    case h_3 hr => exact decodeRow2_readsBack hr
    case h_4 hr => exact decodeRow3_readsBack hr
    case h_5 hr => exact decodeRow4_readsBack hr
    case h_6 hr => exact decodeRow5_readsBack hr
    case h_7 hr | h_8 hr => exact .one rfl rfl (fmtIV_of_row hr)
    case h_9 hr | h_10 hr =>
      refine .one (evenDisp_append _) rfl ?_
      rw [BitVec.extractLsb'_append_eq_left, fmtIV_of_row hr]
    case h_11 hr => exact decodeRow10_readsBack hr
    case h_12 hr => exact .one (evenDisp_append _) rfl (by rw [Cond.toBits_ofBits, fmtIII_of_row hr])
    case h_13 =>
      cases rest with
      | nil => exact .error _
      | cons h1 more =>
        refine decodeLong_readsBack ?_
        generalize rowOf h = r at *
        revert r; decide

end Answers

/-- Settles O1, instruction by instruction. -/
theorem decodeInvertsEncode : Obligations.DecodeInvertsEncode := decode_encode_append

/-- Settles O2: the answer reads back, and the encoding's length is the instruction's. -/
theorem encodeInvertsDecode : Obligations.EncodeInvertsDecode := by
  intro halves i hd
  obtain ⟨hwf, more, rfl⟩ := decode_readsBack halves i hd
  refine ⟨hwf, ?_⟩
  rw [← two_mul_length_encode, Nat.mul_div_cancel_left _ (by decide)]
  exact List.take_left

/-- Settles O5: the two ways into the pattern are its two constructors. -/
theorem illegalPatternDecodes : Obligations.IllegalPatternDecodes := by
  intro h h1 more ho h0 hp
  have hh : fmtI (reg2Of h) 0b111111#6 (reg1Of h) = h := fmtI_of_opcode ho rfl rfl
  cases h10 : h1.getLsbD 10 with
  | true =>
    have hh1 := illegalHighHalf_of_bits h10 h0
    have hd := decode_illegalHigh (more := more) (reg2Of h) (reg1Of h) (reg3Of h1) (h1.extractLsb' 7 3)
      (h1.extractLsb' 1 6)
    rw [hh, hh1] at hd
    exact ⟨_, hd, by rw [encode, hh, hh1], rfl, nofun⟩
  | false =>
    have h7 : h1.extractLsb' 7 3 = 0b111#3 := hp.resolve_left (by rw [h10]; decide)
    have hr : rowOf h1 = 0b0111#4 := by
      have he : h1.extractLsb' 10 1 ++ h1.extractLsb' 7 3 = rowOf h1 :=
        BitVec.extractLsb'_append_extractLsb'_eq_extractLsb' rfl
      rw [← he, extract_of_clear h10, h7]; rfl
    have hh1 := illegalSevenHalf_of_row hr h0
    have hd := decode_illegalSeven (more := more) (reg2Of h) (reg1Of h) (reg3Of h1) (h1.extractLsb' 1 6)
    rw [hh, hh1] at hd
    exact ⟨_, hd, by rw [encode, hh, hh1], rfl, nofun⟩

end Sys2Proof
end

section
/-! What decodes to nothing (spec/30_encoding.md R134, R144, R152 to R161): the undefined cells of the opcode map and of
expansion 1, on words given by their fields (O4). -/

namespace Sys2Proof

/-! ### Second halfwords of expansion 1 by their fields (R159) -/

/-- A second halfword of expansion 1 by its fields: bits 31..27, row, column, bits 20..17, bit 16 = 0. -/
def cellHalf (high : BitVec 5) (row : BitVec 4) (col : BitVec 2) (low : BitVec 4) : Half :=
  high ++ row ++ col ++ low ++ 0#1

section CellHalf

variable {reg1 reg2 high : BitVec 5} {row : BitVec 4} {col : BitVec 2} {low : BitVec 4}

@[simp] theorem rowOf_cellHalf : rowOf (cellHalf high row col low) = row := by
  unfold rowOf cellHalf
  rw [extract_append_high _ _ _ _ (by decide), extract_append_high _ _ _ _ (by decide),
    extract_append_high _ _ _ _ (by decide), extract_append_low _ _ _ _ (by decide)]
  simp

@[simp] theorem colOf_cellHalf : colOf (cellHalf high row col low) = col := by
  unfold colOf cellHalf
  rw [extract_append_high _ _ _ _ (by decide), extract_append_high _ _ _ _ (by decide),
    extract_append_low _ _ _ _ (by decide)]
  simp

@[simp] theorem reg3Of_cellHalf : reg3Of (cellHalf high row col low) = high := by
  unfold reg3Of cellHalf
  rw [extract_append_high _ _ _ _ (by decide), extract_append_high _ _ _ _ (by decide),
    extract_append_high _ _ _ _ (by decide), extract_append_high _ _ _ _ (by decide)]
  simp

theorem low_cellHalf : (cellHalf high row col low).extractLsb' 1 4 = low := by
  unfold cellHalf
  rw [extract_append_high _ _ _ _ (by decide), extract_append_low _ _ _ _ (by decide)]
  simp

theorem bit_cellHalf : (cellHalf high row col low).getLsbD 0 = false := by
  rw [cellHalf, bit_append_low _ _ _ (by decide)]; rfl

@[simp] theorem subOf_cellHalf : subOf (cellHalf high row col low) = low ++ 0#1 := by
  rw [subOf, extract_low_of_even bit_cellHalf, low_cellHalf]

theorem cellHalf_inj {high' : BitVec 5} {low' : BitVec 4} (h : cellHalf high row col low = cellHalf high' row col low') :
    high = high' ∧ low = low' := by
  have hh := congrArg reg3Of h
  have hl := congrArg (·.extractLsb' 1 4) h
  simp only [reg3Of_cellHalf, low_cellHalf] at hh hl
  exact ⟨hh, hl⟩

theorem fmtI_inj {r2 r2' r1 r1' : Reg} {op : BitVec 6} (h : fmtI r2 op r1 = fmtI r2' op r1') : r1 = r1' ∧ r2 = r2' := by
  have h1 := congrArg reg1Of h
  have h2 := congrArg reg2Of h
  simp only [reg1Of_fmtI, reg2Of_fmtI] at h1 h2
  exact ⟨h1, h2⟩

/-- A second halfword with a bit set beside the row and the column is not the fixed one. -/
theorem cellHalf_ne_fixed (hf : ¬ (high = 0#5 ∧ low = 0#4)) : cellHalf high row col low ≠ cellHalf 0#5 row col 0#4 :=
  fun e => hf (cellHalf_inj e)

/-- Nor is one that uses more of them than bits 18..17 any of the four. -/
theorem cellHalf_ne_of_four (hf : ¬ (high = 0#5 ∧ low.toNat < 4)) {k : BitVec 4} (hk : k.toNat < 4) :
    cellHalf high row col low ≠ cellHalf 0#5 row col k := fun e => by
  obtain ⟨rfl, rfl⟩ := cellHalf_inj e
  exact hf ⟨rfl, hk⟩

/-- The first halfword of HALT, DI and the return instructions has r0 in both fields. -/
theorem fmtI_ne_of_regs (hr : ¬ (reg1 = 0#5 ∧ reg2 = 0#5)) : fmtI reg2 0b111111#6 reg1 ≠ 0x07E0#16 :=
  fun e => hr (fmtI_inj (op := 0b111111#6) (r2' := 0#5) (r1' := 0#5) e)

variable (more : List Half)

theorem decode_cell : decode (fmtI reg2 0b111111#6 reg1 :: cellHalf high row col low :: more) =
    decodeExpansion (fmtI reg2 0b111111#6 reg1) (cellHalf high row col low) := decode_expansion _ _ bit_cellHalf

/-! ### What is undefined in expansion 1 (R134, R144, R159) -/

/-- The cells that are undefined as a whole. -/
theorem decodeExpansion_blank {p : BitVec 4 × BitVec 2}
    (hp : p.1 = 0b0011#4 ∨
      p ∈ [(0b0000#4, 0b11#2), (0b0101#4, 0b01#2), (0b0101#4, 0b11#2), (0b0110#4, 0b11#2)]) :
    decodeExpansion (fmtI reg2 0b111111#6 reg1) (cellHalf high p.1 p.2 low) = .error .blankCell := by
  simp only [List.mem_cons, List.not_mem_nil, or_false] at hp
  rcases hp with hr | rfl | rfl | rfl | rfl
  case inl => simp only [decodeExpansion, rowOf_cellHalf, hr]
  all_goals
    simp only [decodeExpansion, rowOf_cellHalf, expandRow0, expandRow5, expandRow6, colOf_cellHalf]
    rfl

/-- DI and EI are the only words of their cell (R130). -/
theorem decodeExpansion_blank_di (hr : ¬ (reg1 = 0#5 ∧ (reg2 = 0b00000#5 ∨ reg2 = 0b10000#5))) :
    decodeExpansion (fmtI reg2 0b111111#6 reg1) (cellHalf 0#5 0b0010#4 0b11#2 0#4) = .error .blankCell := by
  have hdi : fmtI reg2 0b111111#6 reg1 ≠ fmtI 0b00000#5 0b111111#6 0#5 := fun e =>
    hr ⟨(fmtI_inj e).1, .inl (fmtI_inj e).2⟩
  have hei : fmtI reg2 0b111111#6 reg1 ≠ fmtI 0b10000#5 0b111111#6 0#5 := fun e =>
    hr ⟨(fmtI_inj e).1, .inr (fmtI_inj e).2⟩
  simp only [decodeExpansion, rowOf_cellHalf, expandRow2, colOf_cellHalf]
  exact (if_neg (not_not.mpr rfl)).trans ((if_neg hdi).trans (if_neg hei))

theorem decodeExpansion_condBit4 (h4 : reg1.getLsbD 4 = true) :
    decodeExpansion (fmtI reg2 0b111111#6 reg1) (cellHalf 0#5 0b0000#4 0b00#2 0#4) = .error .condBit4 ∧
    decodeExpansion (fmtI reg2 0b111111#6 reg1) (cellHalf 0#5 0b0100#4 0b00#2 0#4) = .error .condBit4 := by
  have hb : (fmtI reg2 0b111111#6 reg1).getLsbD 4 = true := (bit_fmtI _ _ _ _ (by decide)).trans h4
  simp only [decodeExpansion, rowOf_cellHalf, expandRow0, expandRow4, colOf_cellHalf]
  exact ⟨(if_neg (not_not.mpr rfl)).trans (if_pos hb), (if_neg (not_not.mpr rfl)).trans (if_pos hb)⟩

/-- The rows whose second halfword is fixed. -/
theorem decodeExpansion_fixedBits (hf : ¬ (high = 0#5 ∧ low = 0#4)) {p : BitVec 4 × BitVec 2}
    (hp : p ∈ [(0b0000#4, 0b00#2), (0b0000#4, 0b01#2), (0b0000#4, 0b10#2), (0b0001#4, 0b00#2), (0b0001#4, 0b01#2),
        (0b0001#4, 0b10#2), (0b0010#4, 0b00#2), (0b0010#4, 0b01#2), (0b0010#4, 0b11#2), (0b0100#4, 0b00#2)]) :
    decodeExpansion (fmtI reg2 0b111111#6 reg1) (cellHalf high p.1 p.2 low) = .error .fixedBits := by
  have hne := cellHalf_ne_fixed (row := p.1) (col := p.2) hf
  simp only [List.mem_cons, List.not_mem_nil, or_false] at hp
  rcases hp with rfl | rfl | rfl | rfl | rfl | rfl | rfl | rfl | rfl | rfl <;>
    simp only [decodeExpansion, rowOf_cellHalf, expandRow0, expandRow1, expandRow2, expandRow4, colOf_cellHalf]
  · exact if_pos hne
  · exact if_neg hne
  · exact if_neg hne
  · exact if_neg hne
  · exact if_neg hne
  · exact if_neg hne
  · exact if_neg fun e => hne e.1
  · exact if_neg fun e => hne e.1
  · exact if_pos hne
  · exact if_pos hne

/-- SET1 to TST1 and RETI to DBRET by bits 18..17 alone. -/
theorem decodeExpansion_fixedBits_of_four (hf : ¬ (high = 0#5 ∧ low.toNat < 4)) :
    decodeExpansion (fmtI reg2 0b111111#6 reg1) (cellHalf high 0b0001#4 0b11#2 low) = .error .fixedBits ∧
    decodeExpansion (fmtI reg2 0b111111#6 reg1) (cellHalf high 0b0010#4 0b10#2 low) = .error .fixedBits := by
  have hne : ∀ {row col} {k : BitVec 4}, k.toNat < 4 → cellHalf high row col low ≠ cellHalf 0#5 row col k :=
    cellHalf_ne_of_four hf
  simp only [decodeExpansion, rowOf_cellHalf, expandRow1, expandRow2, colOf_cellHalf]
  constructor
  · exact (if_neg (hne (k := 0#4) (by decide))).trans <| (if_neg (hne (k := 1#4) (by decide))).trans <|
      (if_neg (hne (k := 2#4) (by decide))).trans <| if_neg (hne (k := 3#4) (by decide))
  · split
    · rfl
    · exact (if_neg (hne (k := 0#4) (by decide))).trans <| (if_neg (hne (k := 1#4) (by decide))).trans <|
        (if_neg (hne (k := 2#4) (by decide))).trans <| if_neg (hne (k := 3#4) (by decide))

/-- The multiplications and divisions by bit 17 alone. -/
theorem decodeExpansion_fixedBits_of_two (hl : 2 ≤ low.toNat) {p : BitVec 4 × BitVec 2}
    (hp : p ∈ [(0b0100#4, 0b01#2), (0b0101#4, 0b00#2), (0b0101#4, 0b10#2)]) :
    decodeExpansion (fmtI reg2 0b111111#6 reg1) (cellHalf high p.1 p.2 low) = .error .fixedBits := by
  have hs : ∀ low : BitVec 4, 2 ≤ low.toNat → low ++ 0#1 ≠ 0b00000#5 ∧ low ++ 0#1 ≠ 0b00010#5 := by decide
  obtain ⟨h0, h2⟩ := hs low hl
  simp only [List.mem_cons, List.not_mem_nil, or_false] at hp
  rcases hp with rfl | rfl | rfl <;>
    simp only [decodeExpansion, rowOf_cellHalf, expandRow4, expandRow5, colOf_cellHalf, subOf_cellHalf, h0, h2, if_false]

/-- The swaps: bits 20..19 and reg1 are 0, and one of the four values of bits 18..17 is no instruction. -/
theorem decodeExpansion_swap_of_four (hl : 4 ≤ low.toNat) :
    decodeExpansion (fmtI reg2 0b111111#6 reg1) (cellHalf high 0b0110#4 0b10#2 low) = .error .fixedBits := by
  have hs : ∀ low : BitVec 4, 4 ≤ low.toNat →
      low ++ 0#1 ≠ 0b00000#5 ∧ low ++ 0#1 ≠ 0b00010#5 ∧ low ++ 0#1 ≠ 0b00100#5 ∧ low ++ 0#1 ≠ 0b00110#5 := by decide
  obtain ⟨h0, h2, h4, h6⟩ := hs low hl
  simp only [decodeExpansion, rowOf_cellHalf, expandRow6, colOf_cellHalf, subOf_cellHalf, h0, h2, h4, h6, if_false,
    ite_self]

theorem decodeExpansion_swap_blank :
    decodeExpansion (fmtI reg2 0b111111#6 0#5) (cellHalf high 0b0110#4 0b10#2 0b0011#4) = .error .blankCell := by
  simp only [decodeExpansion, rowOf_cellHalf, expandRow6, colOf_cellHalf, subOf_cellHalf, reg1Of_fmtI]
  rfl

theorem decodeExpansion_swap_reg1 (hr : reg1 ≠ 0#5) :
    decodeExpansion (fmtI reg2 0b111111#6 reg1) (cellHalf high 0b0110#4 0b10#2 low) = .error .fixedBits := by
  simp only [decodeExpansion, rowOf_cellHalf, expandRow6, colOf_cellHalf, reg1Of_fmtI]
  exact if_pos hr

theorem decodeExpansion_trap_reg2 (hr : reg2 ≠ 0#5) :
    decodeExpansion (fmtI reg2 0b111111#6 reg1) (cellHalf high 0b0010#4 0b00#2 low) = .error .fixedBits := by
  simp only [decodeExpansion, rowOf_cellHalf, expandRow2, colOf_cellHalf, reg2Of_fmtI]
  exact if_neg fun e => hr e.2

theorem decodeExpansion_return_regs (hr : ¬ (reg1 = 0#5 ∧ reg2 = 0#5)) :
    decodeExpansion (fmtI reg2 0b111111#6 reg1) (cellHalf high 0b0010#4 0b01#2 low) = .error .fixedBits ∧
    decodeExpansion (fmtI reg2 0b111111#6 reg1) (cellHalf high 0b0010#4 0b10#2 low) = .error .fixedBits := by
  simp only [decodeExpansion, rowOf_cellHalf, expandRow2, colOf_cellHalf]
  exact ⟨if_neg fun e => fmtI_ne_of_regs hr e.2, if_pos (fmtI_ne_of_regs hr)⟩

/-! ### What is undefined in the opcode map (R152, R155, R157, R158) -/

theorem decodePrepare_error {h h1 : Half} (h001 : subOf h1 ≠ 0b00001#5)
    (h011 : (subOf h1).extractLsb' 0 3 ≠ 0b011#3) :
    decodePrepare h h1 more = .error .prepareForm := by
  unfold decodePrepare
  split
  case h_1 e => exact absurd e h001
  case h_6 => rfl
  all_goals
    next e => rw [e] at h011; exact absurd rfl h011

theorem decode_prepare_error (low : BitVec 6) (high : BitVec 11) {form : BitVec 5} (hb : form.getLsbD 0 = true)
    (h001 : form ≠ 0b00001#5) (h011 : form.extractLsb' 0 3 ≠ 0b011#3) :
    decode (fmtV 0#5 low :: (high ++ form) :: more) = .error .prepareForm := by
  have hs : subOf (high ++ form) = form := BitVec.extractLsb'_append_eq_right
  have h0 : (high ++ form).getLsbD 0 = true := (bit_append_low _ _ _ (by decide)).trans hb
  rw [decode_fmtV, decodeJump, if_pos h0, if_pos (reg2Of_fmtV _ _)]
  exact decodePrepare_error more (by rwa [hs]) (by rwa [hs])

theorem decode_ldHu_error (high : BitVec 15) :
    decode (fmtI 0#5 0b111111#6 reg1 :: dispHalf high 1#1 :: more) = .error .ldhuReg2Zero := by
  rw [decode_row15 (by simp), decodeRow15, colOf_fmtI, bit_dispHalf, reg2Of_fmtI]
  rfl

theorem decode_divh_error (hr : reg2 ≠ 31#5) :
    decode (fmtI reg2 0b000010#6 0#5 :: more) = .error .divhReg1Zero := by
  simp [decode, decodeRow0, hr]

theorem decode_mulhImm5_error : decode (fmtI 0#5 0b010111#6 reg1 :: more) = .error .mulhImm5Reg2Zero := by
  simp [decode, decodeRow5]

theorem decode_mulhi_error (imm16 : Half) :
    decode (fmtI 0#5 0b110111#6 reg1 :: imm16 :: more) = .error .mulhiReg2Zero := by
  simp [decode, decodeLong, decodeRow13]

end CellHalf

/-- Settles O4, cell by cell; each word of the statement is one of a format. -/
theorem undefinedEncodingsDecodeToNothing : Obligations.UndefinedEncodingsDecodeToNothing := by
  refine ⟨fun reg2 more hr => decode_divh_error more hr, fun imm5 more => decode_mulhImm5_error more,
    fun reg1 imm16 more => decode_mulhi_error more imm16,
    fun low high form more hb h001 h011 => decode_prepare_error more low high hb h001 h011,
    fun reg1 high more => decode_ldHu_error more high, ?_⟩
  intro reg1 reg2 high low more cell
  have of_expansion : ∀ {row col why},
      decodeExpansion (fmtI reg2 0b111111#6 reg1) (cellHalf high row col low) = .error why →
      cell row col = .error why := (decode_cell more).trans
  refine ⟨fun col => of_expansion (decodeExpansion_blank (p := (0b0011#4, col)) (.inl rfl)),
    of_expansion (decodeExpansion_blank (p := (0b0000#4, 0b11#2)) (by simp)),
    of_expansion (decodeExpansion_blank (p := (0b0101#4, 0b01#2)) (by simp)),
    of_expansion (decodeExpansion_blank (p := (0b0101#4, 0b11#2)) (by simp)),
    of_expansion (decodeExpansion_blank (p := (0b0110#4, 0b11#2)) (by simp)), ?_, ?_, ?_, ?_,
    fun hf p hp => of_expansion (decodeExpansion_fixedBits hf hp), fun hf => ?_, fun hl => ?_,
    fun hl => of_expansion (decodeExpansion_swap_of_four hl), fun hr => of_expansion (decodeExpansion_trap_reg2 hr),
    fun hr => ?_, fun hr => of_expansion (decodeExpansion_swap_reg1 hr)⟩
  · rintro rfl rfl rfl rfl
    rfl
  · rintro hr rfl rfl
    exact of_expansion (decodeExpansion_blank_di hr)
  · rintro rfl rfl
    exact of_expansion decodeExpansion_swap_blank
  · rintro h4 rfl rfl
    exact (decodeExpansion_condBit4 h4).imp of_expansion of_expansion
  · exact (decodeExpansion_fixedBits_of_four hf).imp of_expansion of_expansion
  · exact ⟨of_expansion (decodeExpansion_fixedBits_of_two hl (p := (0b0100#4, 0b01#2)) (by simp)),
      of_expansion (decodeExpansion_fixedBits_of_two hl (p := (0b0101#4, 0b00#2)) (by simp)),
      of_expansion (decodeExpansion_fixedBits_of_two hl (p := (0b0101#4, 0b10#2)) (by simp))⟩
  · exact (decodeExpansion_return_regs hr).imp of_expansion of_expansion

end Sys2Proof
end

section
/-! The condition codes (spec/30_encoding.md R145), O21. -/

namespace Sys2Proof.Machine

variable {psw : Word}

/-- The codes with bit 3 = 1 are, but for SA, the negations of the others. -/
theorem condHolds_iff_not {c c' : Cond} (h : condHolds c' psw = !condHolds c psw) :
    condHolds c' psw = true ↔ ¬ condHolds c psw = true := by simp [h]

theorem condHolds_lt_iff : condHolds .lt psw = true ↔ ¬ (flagOf psw .s = true ↔ flagOf psw .ov = true) :=
  bne_iff_ne.trans (not_congr Bool.eq_iff_iff)

theorem condHolds_nh_iff : condHolds .nh psw = true ↔ flagOf psw .cy = true ∨ flagOf psw .z = true :=
  Bool.or_eq_true_iff

theorem condHolds_le_iff :
    condHolds .le psw = true ↔ ¬ (flagOf psw .s = true ↔ flagOf psw .ov = true) ∨ flagOf psw .z = true :=
  Bool.or_eq_true_iff.trans (or_congr_left condHolds_lt_iff)

theorem condHolds_ge_iff : condHolds .ge psw = true ↔ (flagOf psw .s = true ↔ flagOf psw .ov = true) := by
  rw [condHolds_iff_not (c := .lt) rfl, condHolds_lt_iff, not_not]

theorem condHolds_gt_iff :
    condHolds .gt psw = true ↔ (flagOf psw .s = true ↔ flagOf psw .ov = true) ∧ ¬ flagOf psw .z = true := by
  rw [condHolds_iff_not (c := .le) rfl, condHolds_le_iff, not_or, not_not]

/-- Settles O21: a code that names one flag tests it, the others are above. -/
theorem conditionCodesTestFlags : Obligations.ConditionCodesTestFlags := by
  intro psw sat cy ov n z tests
  refine ⟨⟨rfl, Iff.rfl⟩, ⟨rfl, condHolds_iff_not (c := .v) rfl⟩, ⟨rfl, Iff.rfl⟩,
    ⟨rfl, condHolds_iff_not (c := .l) rfl⟩, ⟨rfl, Iff.rfl⟩, ⟨rfl, condHolds_iff_not (c := .z) rfl⟩,
    ⟨rfl, condHolds_nh_iff⟩, ⟨rfl, ?h⟩, ⟨rfl, Iff.rfl⟩, ⟨rfl, condHolds_iff_not (c := .s) rfl⟩,
    ⟨rfl, iff_of_true rfl trivial⟩, ⟨rfl, Iff.rfl⟩, ⟨rfl, condHolds_lt_iff⟩, ⟨rfl, condHolds_ge_iff⟩,
    ⟨rfl, condHolds_le_iff⟩, ⟨rfl, condHolds_gt_iff⟩⟩
  case h => exact (condHolds_iff_not (c := .nh) rfl).trans (not_congr condHolds_nh_iff)

end Sys2Proof.Machine
end

section
/-! Load and store instructions (spec/40_load_store.md R201 to R219), O12 to O15. What each reads or stores is
`exec_loadOf` and `exec_storeOf`; here they are joined with the length and the printed encoding of each form. -/

namespace Sys2Proof.Machine

variable {s : State} {i : Instr} {a v : Word} {n : Nat}

/-! ### Encodings whose last field is cut (spec/30_encoding.md R121, R124, R125) -/

theorem fmtI_append (r2 : Reg) (op : BitVec 6) (b : BitVec 1) (d : BitVec 4) :
    fmtI r2 op (b ++ d) = r2 ++ (op ++ b) ++ d := by
  rw [fmtI, BitVec.append_assoc', BitVec.append_assoc (x₁ := r2) (x₂ := op)]; rfl

theorem fmtIV_append (r2 : Reg) (op : BitVec 4) (d : BitVec 6) (b : BitVec 1) :
    fmtIV r2 op (d ++ b) = r2 ++ op ++ d ++ b := by
  rw [fmtIV, BitVec.append_assoc']; rfl

theorem fmtV_append (r2 : Reg) (b : BitVec 1) (r1 : Reg) :
    fmtV r2 (b ++ r1) = r2 ++ 0b11110#5 ++ b ++ r1 := by
  rw [fmtV, BitVec.append_assoc']; rfl

/-! ### Loads and stores run -/

theorem advanced_advance {u : State} (h : u.pc = s.pc) (len : Word) : Advanced len s (u.advance len) := by
  rw [Advanced, State.advance_pc, State.nextPC, h, pcMask]

/-- An access moves no pc of its own, so the instruction ends its length on (spec/10_state.md R34). -/
theorem exec_advances_of_access (h : (i.loadOf s).isSome ∨ (i.storeOf s).isSome) :
    ∃ t, exec i s = .next t ∧ Advanced (BitVec.ofNat 32 i.length) s t := by
  cases i with
  | ldB | ldBu | ldH | ldHu | ldW | sldB | sldBu | sldH | sldHu | sldW => exact ⟨_, rfl, advanced_advance rfl _⟩
  | stB | sstB => exact ⟨_, rfl, advanced_advance (State.storeByte_pc ..) _⟩
  | stH | sstH => exact ⟨_, rfl, advanced_advance (State.storeHalf_pc ..) _⟩
  | stW | sstW => exact ⟨_, rfl, advanced_advance (State.storeWord_pc ..) _⟩
  | _ => rcases h with h | h <;> cases h

/-- `exec_loadOf`, with the answer it supposes and the length it leaves open. -/
theorem runs_loadOf {r : Reg} {value : (Nat → Byte) → Word} (hi : i.loadOf s = some (a, n, r, value)) :
    Runs i s (Loads r a n value (BitVec.ofNat 32 i.length) s) := by
  obtain ⟨t, ht, hpc⟩ := exec_advances_of_access (.inl (Option.isSome_of_eq_some hi))
  obtain ⟨_, hread, -, hframe, hmem⟩ := exec_loadOf hi ht
  exact ⟨t, ht, hread, hpc, hframe, hmem⟩

/-- `exec_storeOf`, with the answer it supposes and the length it leaves open. -/
theorem runs_storeOf (hs : s.mem.wf = true) (hi : i.storeOf s = some (a, n, v)) :
    Runs i s (Stores a n v (BitVec.ofNat 32 i.length) s) := by
  obtain ⟨t, ht, hpc⟩ := exec_advances_of_access (.inr (Option.isSome_of_eq_some hi))
  obtain ⟨_, hstored, hother, -, hframe⟩ := exec_storeOf hs hi ht
  exact ⟨t, ht, hstored, hother, hpc, hframe⟩

/-! ### The obligations -/

/-- Settles O12: `loadOf` gives the address, the width and the extension of each form. -/
theorem longLoadsRead : Obligations.LongLoadsRead := by
  intro s disp16 reg1 reg2 a low high
  have hldBu : encode (.ldBu disp16 reg1 reg2) = [reg2 ++ 0b11110#5 ++ low ++ reg1, high ++ 1#1] := by
    rw [encode, fmtV_append]; rfl
  exact ⟨⟨rfl, runs_loadOf rfl⟩, ⟨hldBu, runs_loadOf rfl⟩, ⟨rfl, runs_loadOf rfl⟩, ⟨rfl, runs_loadOf rfl⟩,
    ⟨rfl, runs_loadOf rfl⟩⟩

/-- Settles O13: as O12, relative to ep. -/
theorem shortLoadsRead : Obligations.ShortLoadsRead := by
  intro s disp4 disp5 disp7 disp8 reg2 ep
  have hsldBu : encode (.sldBu disp4 reg2) = [reg2 ++ 0b0000110#7 ++ disp4] := by
    rw [encode, fmtI_append]; rfl
  have hsldHu : encode (.sldHu disp5 reg2) = [reg2 ++ 0b0000111#7 ++ disp5.extractLsb' 1 4] := by
    rw [encode, fmtI_append]; rfl
  have hsldW : encode (.sldW disp8 reg2) = [reg2 ++ 0b1010#4 ++ disp8.extractLsb' 2 6 ++ 0#1] := by
    rw [encode, fmtIV_append]
  exact ⟨⟨rfl, runs_loadOf rfl⟩, ⟨hsldBu, runs_loadOf rfl⟩, ⟨rfl, runs_loadOf rfl⟩, ⟨hsldHu, runs_loadOf rfl⟩,
    ⟨hsldW, runs_loadOf rfl⟩⟩

/-- Settles O14: `storeOf` gives the address, the width and the value of each form. -/
theorem longStoresWrite : Obligations.LongStoresWrite := by
  intro s disp16 reg1 reg2 hs a high
  exact ⟨⟨rfl, runs_storeOf hs rfl⟩, ⟨rfl, runs_storeOf hs rfl⟩, ⟨rfl, runs_storeOf hs rfl⟩⟩

/-- Settles O15: as O14, relative to ep. -/
theorem shortStoresWrite : Obligations.ShortStoresWrite := by
  intro s disp7 disp8 reg2 hs ep
  have hsstW : encode (.sstW reg2 disp8) = [reg2 ++ 0b1010#4 ++ disp8.extractLsb' 2 6 ++ 1#1] := by
    rw [encode, fmtIV_append]
  exact ⟨⟨rfl, runs_storeOf hs rfl⟩, ⟨rfl, runs_storeOf hs rfl⟩, ⟨hsstW, runs_storeOf hs rfl⟩⟩

end Sys2Proof.Machine
end

section
/-! Multiply instructions (spec/41_multiply.md R231 to R237), O16 to O18. The machine forms every product in 64 bits;
the two words of it that it stores are the words of the exact integer product. -/

namespace Sys2Proof.Machine

variable {s t u : State}

/-! ### The exact product and its two words (spec/41_multiply.md R231) -/

theorem ofInt_lowWord (e : Int) : (BitVec.ofInt 64 e).extractLsb' 0 32 = BitVec.ofInt 32 e := by
  apply BitVec.eq_of_toNat_eq
  simp only [BitVec.extractLsb'_toNat, BitVec.toNat_ofInt, Nat.shiftRight_zero]
  omega

theorem ofInt_highWord (e : Int) : (BitVec.ofInt 64 e).extractLsb' 32 32 = BitVec.ofInt 32 (e / 2 ^ 32) := by
  apply BitVec.eq_of_toNat_eq
  simp only [BitVec.extractLsb'_toNat, BitVec.toNat_ofInt, Nat.shiftRight_eq_div_pow]
  omega

theorem unsignedProduct_eq_ofInt (a b : Word) : unsignedProduct a b = BitVec.ofInt 64 (a.toNat * b.toNat) := by
  rw [unsignedProduct, ← BitVec.ofInt_natCast, Int.natCast_mul]

theorem toInt_sext {n : Nat} (h : n ≤ 32) (v : BitVec n) : (sext v).toInt = v.toInt :=
  BitVec.toInt_signExtend_of_le h

theorem toNat_zext {n : Nat} (h : n ≤ 32) (v : BitVec n) : (zext v).toNat = v.toNat :=
  BitVec.toNat_setWidth_of_le h

/-! ### Writing a product -/

theorem Frame.trans {regs regs' : List Reg} {flags flags' : List Flag} {special special' : List (BitVec 5)}
    (h : Frame regs flags special s t) (h' : Frame regs' flags' special' t u) :
    Frame (regs ++ regs') (flags ++ flags') (special ++ special') s u where
  regs r hr := by
    rw [List.mem_append, not_or] at hr
    exact (h'.regs r hr.2).trans (h.regs r hr.1)
  flags f hf := by
    rw [List.mem_append, not_or] at hf
    exact (h'.flags f hf.2).trans (h.flags f hf.1)
  reserved k hk := (h'.reserved k hk).trans (h.reserved k hk)
  special n h5 hn := by
    rw [List.mem_append, not_or] at hn
    exact (h'.special n h5 hn.2).trans (h.special n h5 hn.1)
  halted := h'.halted.trans h.halted
  product := h'.product.trans h.product
  req := h'.req.trans h.req
  script := h'.script.trans h.script

theorem frame_setReg (r : Reg) (v : Word) : Frame [r] [] [] s (s.setReg r v) :=
  Frame.of_update rfl (fun _ _ => rfl) (fun _ _ => rfl) rfl

/-- The second write is `writesOnly_setReg` after the first, so the high word wins (spec/41_multiply.md R232). -/
theorem writesProductOf_ofInt (low high : Reg) (e : Int) :
    WritesProductOf low high e s ((s.writeProduct low high (BitVec.ofInt 64 e)).advance 4#32) := by
  rw [State.writeProduct, ofInt_lowWord, ofInt_highWord]
  obtain ⟨hhigh, hpc, hframe, hmem⟩ :=
    writesOnly_setReg (s.setReg low (BitVec.ofInt 32 e)) high (BitVec.ofInt 32 (e / 2 ^ 32)) 4#32
  have hlow (hne : low ≠ high) :=
    (hframe.regs low (List.mem_singleton.not.mpr hne)).trans (State.gpr_setReg_self s low _)
  exact ⟨hhigh, hlow, hpc, (frame_setReg low _).trans hframe, hmem⟩

/-- A product of two extended operands, of which one word is stored, is the product of the operands themselves. -/
theorem writesOnly_signedProduct {m n : Nat} (hm : m ≤ 32) (hn : n ≤ 32) (r : Reg) (x : BitVec m) (y : BitVec n)
    (len : Word) :
    WritesOnly r (BitVec.ofInt 32 (x.toInt * y.toInt)) len s
      ((s.setReg r ((signedProduct (sext x) (sext y)).extractLsb' 0 32)).advance len) := by
  rw [signedProduct, ofInt_lowWord, toInt_sext hm, toInt_sext hn]
  exact writesOnly_setReg s r _ len

/-! ### MUL and MULU run, or are refused (spec/41_multiply.md R232 to R235) -/

section Combination

variable {reg1 reg2 reg3 : Reg}

theorem prohibitedProduct_iff :
    prohibitedProduct reg1 reg2 reg3 = true ↔ reg1 = reg3 ∧ reg1 ≠ reg2 ∧ reg1 ≠ 0#5 ∧ reg3 ≠ 0#5 :=
  decide_eq_true_iff

theorem exec_mulReg_of_prohibited (h : prohibitedProduct reg1 reg2 reg3 = true) :
    exec (.mulReg reg1 reg2 reg3) s = .refused .prohibitedRegisters := if_pos h

theorem exec_muluReg_of_prohibited (h : prohibitedProduct reg1 reg2 reg3 = true) :
    exec (.muluReg reg1 reg2 reg3) s = .refused .prohibitedRegisters := if_pos h

theorem runs_mulReg (h : ¬ prohibitedProduct reg1 reg2 reg3 = true) :
    Runs (.mulReg reg1 reg2 reg3) s (WritesProductOf reg2 reg3 ((s.gpr reg2).toInt * (s.gpr reg1).toInt) s) :=
  ⟨_, if_neg h, writesProductOf_ofInt reg2 reg3 _⟩

theorem runs_muluReg (h : ¬ prohibitedProduct reg1 reg2 reg3 = true) :
    Runs (.muluReg reg1 reg2 reg3) s (WritesProductOf reg2 reg3 ((s.gpr reg2).toNat * (s.gpr reg1).toNat) s) :=
  ⟨_, if_neg h, unsignedProduct_eq_ofInt _ _ ▸ writesProductOf_ofInt reg2 reg3 _⟩

theorem runs_mulImm9 (imm9 : BitVec 9) :
    Runs (.mulImm9 imm9 reg2 reg3) s (WritesProductOf reg2 reg3 ((s.gpr reg2).toInt * imm9.toInt) s) := by
  refine ⟨_, rfl, ?_⟩
  rw [signedProduct, toInt_sext (by decide)]
  exact writesProductOf_ofInt reg2 reg3 _

theorem runs_muluImm9 (imm9 : BitVec 9) :
    Runs (.muluImm9 imm9 reg2 reg3) s (WritesProductOf reg2 reg3 ((s.gpr reg2).toNat * imm9.toNat) s) := by
  refine ⟨_, rfl, ?_⟩
  rw [unsignedProduct_eq_ofInt, toNat_zext (by decide)]
  exact writesProductOf_ofInt reg2 reg3 _

end Combination

/-! ### The obligations -/

/-- Settles O16: a register form runs where its combination is not prohibited, an imm9 form always. -/
theorem wordProductsAreExact : Obligations.WordProductsAreExact := by
  intro s reg1 reg2 reg3 imm9 immLow immHigh
  refine ⟨fun hallowed => ?_, ⟨rfl, runs_mulImm9 imm9⟩, ⟨rfl, runs_muluImm9 imm9⟩⟩
  have h : ¬ prohibitedProduct reg1 reg2 reg3 = true := prohibitedProduct_iff.not.mpr hallowed
  exact ⟨⟨rfl, runs_mulReg h⟩, ⟨rfl, runs_muluReg h⟩⟩

/-- Settles O17: the four conditions are `prohibitedProduct`, which both register forms test first. -/
theorem prohibitedProductsAreRefused : Obligations.ProhibitedProductsAreRefused := by
  intro s reg1 reg2 reg3 h13 h12 h1 h3
  have h : prohibitedProduct reg1 reg2 reg3 = true := prohibitedProduct_iff.mpr ⟨h13, h12, h1, h3⟩
  exact ⟨exec_mulReg_of_prohibited h, exec_muluReg_of_prohibited h⟩

/-- Settles O18: each operand is the extension of a halfword or an immediate, so its signed value is theirs. -/
theorem halfwordProductsAreExact : Obligations.HalfwordProductsAreExact := by
  intro s reg1 reg2 imm5 imm16 low
  exact ⟨⟨rfl, _, rfl, writesOnly_signedProduct (by decide) (by decide) reg2 _ _ _⟩,
    ⟨rfl, _, rfl, writesOnly_signedProduct (by decide) (by decide) reg2 _ _ _⟩,
    ⟨rfl, _, rfl, writesOnly_signedProduct (by decide) (by decide) reg2 _ _ _⟩⟩

end Sys2Proof.Machine
end

section
/-! Arithmetic instructions (spec/42_arithmetic.md R240 to R256), O19, O20 and O22 to O27, and the printed words of
all families, O3. CY and OV of a sum and a difference are read off their exact integers; a division is `sdiv` and
`srem`, or `udiv` and `umod`, and what it writes depends on its outcome alone. -/

namespace Sys2Proof.Machine

variable {s t : State}

/-! ### Words the instruction pages print -/

/-- Settles O3: the decoder is run on each word. -/
theorem printedWordsDecode : Obligations.PrintedWordsDecode :=
  ⟨rfl, rfl, rfl, rfl, rfl, rfl, rfl, rfl, rfl, rfl, rfl, rfl, rfl, rfl, rfl, rfl, rfl⟩

/-! ### Moves and conditions (spec/42_arithmetic.md R243, R245 to R249) -/

/-- MOVHI adds its immediate in the high halfword (R247). -/
theorem add_append_zero (v : Word) (imm16 : BitVec 16) :
    v + (imm16 ++ 0#16) = BitVec.ofNat 32 (v.toNat + 65536 * imm16.toNat) := by
  have hhigh : (imm16 ++ 0#16).toNat = 65536 * imm16.toNat := by
    rw [BitVec.toNat_append, BitVec.toNat_zero, Nat.or_zero, Nat.shiftLeft_eq, Nat.mul_comm]
  rw [← hhigh, BitVec.ofNat_add]
  simp

/-- Settles O23: each form is one register written. -/
theorem movesWriteOneRegister : Obligations.MovesWriteOneRegister := by
  intro s reg1 reg2 imm5 imm16 imm32
  exact ⟨⟨rfl, _, rfl, writesOnly_setReg s reg2 _ _⟩, ⟨rfl, _, rfl, writesOnly_setReg s reg2 _ _⟩,
    ⟨rfl, _, rfl, writesOnly_setReg s reg1 _ _⟩, ⟨rfl, _, rfl, writesOnly_setReg s reg2 _ _⟩,
    ⟨rfl, _, rfl, add_append_zero _ imm16 ▸ writesOnly_setReg s reg2 _ _⟩⟩

/-- SASF's shift leaves bit 0 to the condition, so the OR is a sum (R248). -/
theorem shiftLeft_or_bit (v : Word) (b : Bool) :
    v <<< 1 ||| (if b then 1#32 else 0#32) = BitVec.ofNat 32 (2 * v.toNat + (if b then 1#32 else 0#32).toNat) := by
  have hand : v <<< 1 &&& (if b then 1#32 else 0#32) = 0#32 := by
    cases b
    · simp
    · ext k; cases k <;> simp
  rw [← BitVec.add_eq_or_of_and_eq_zero _ _ hand]
  apply BitVec.eq_of_toNat_eq
  simp [Nat.shiftLeft_eq, Nat.mul_comm]

/-- The first halfword of SASF and SETF, whose last field is cut (R248, R249). -/
theorem fmtI_cond (r2 : Reg) (c : Cond) : fmtI r2 0b111111#6 (0#1 ++ c.toBits) = r2 ++ 0b1111110#7 ++ c.toBits :=
  fmtI_append r2 _ _ _

/-- Settles O22: `State.cond` reads the PSW before the instruction, and each form is one register written. -/
theorem conditionsSelectResults : Obligations.ConditionsSelectResults := by
  intro s c reg1 reg2 reg3 imm5 bit
  have hsasf : encode (.sasf c reg2) = [reg2 ++ 0b1111110#7 ++ c.toBits, 0x0200#16] := by rw [encode, fmtI_cond]
  have hsetf : encode (.setf c reg2) = [reg2 ++ 0b1111110#7 ++ c.toBits, 0x0000#16] := by rw [encode, fmtI_cond]
  exact ⟨⟨rfl, _, rfl, writesOnly_setReg s reg3 _ _⟩, ⟨rfl, _, rfl, writesOnly_setReg s reg3 _ _⟩,
    ⟨hsasf, _, rfl, shiftLeft_or_bit _ _ ▸ writesOnly_setReg s reg2 _ _⟩, ⟨hsetf, _, rfl, writesOnly_setReg s reg2 _ _⟩⟩

/-! ### Flags of sums and differences (spec/42_arithmetic.md R240) -/

theorem ofInt_add_toInt (a b : Word) : BitVec.ofInt 32 (a.toInt + b.toInt) = a + b := by
  rw [BitVec.ofInt_add, BitVec.ofInt_toInt, BitVec.ofInt_toInt]

theorem ofInt_sub_toInt (a b : Word) : BitVec.ofInt 32 (a.toInt - b.toInt) = a - b := by
  rw [Int.sub_eq_add_neg, BitVec.ofInt_add, BitVec.ofInt_neg, BitVec.ofInt_toInt, BitVec.ofInt_toInt,
    BitVec.sub_eq_add_neg]

theorem msb_iff_toInt_neg (r : Word) : r.msb = true ↔ r.toInt < 0 := by rw [BitVec.msb_eq_toInt, decide_eq_true_iff]

theorem saddOverflow_iff (a b : Word) :
    a.saddOverflow b = true ↔ ¬ (-2 ^ 31 ≤ a.toInt + b.toInt ∧ a.toInt + b.toInt < 2 ^ 31) := by
  simp only [BitVec.saddOverflow, Bool.or_eq_true, decide_eq_true_iff]
  omega

theorem ssubOverflow_iff (a b : Word) :
    a.ssubOverflow b = true ↔ ¬ (-2 ^ 31 ≤ a.toInt - b.toInt ∧ a.toInt - b.toInt < 2 ^ 31) := by
  simp only [BitVec.ssubOverflow, Bool.or_eq_true, decide_eq_true_iff]
  omega

/-- OV of a sum: operands of one sign, and a result of the other. -/
theorem addFlags_ov (a b : Word) : (addFlags a b).ov = some (a.saddOverflow b) :=
  congrArg some (BitVec.saddOverflow_eq a b).symm

/-- OV of a difference: operands of two signs, and a result without the first one's. -/
theorem subFlags_ov (a b : Word) : (subFlags a b).ov = some (a.ssubOverflow b) := by
  have signs : ∀ x y r : Bool, (x != y && r != x) = (!x && y && r || x && !y && !r) := by decide
  rw [BitVec.ssubOverflow_eq, ← signs]
  rfl

/-- The four flags of a result, once CY and OV are known for what they say. -/
theorem arithFlags_of_psw {w : FlagWrite} {psw r : Word} {cy ov : Bool} {carries : Prop} {e : Int}
    (h : t.psw = w.apply psw) (hw : w = { cy := some cy, ov := some ov, s := some r.msb, z := some (r == 0#32) })
    (hcy : cy = true ↔ carries) (hov : ov = true ↔ ¬ (-2 ^ 31 ≤ e ∧ e < 2 ^ 31)) : ArithFlags carries e r t := by
  have hflag (f : Flag) : flagOf t.psw f = (w.get f).getD (flagOf psw f) := by rw [h, flagOf_apply]
  subst hw
  refine ⟨?_, ?_, ?_, ?_⟩ <;> rw [hflag]
  · exact hcy
  · exact hov
  · exact msb_iff_toInt_neg r
  · exact beq_iff_eq

theorem sumFlags_of_psw {a b psw : Word} (h : t.psw = (addFlags a b).apply psw) : SumFlags a b t := by
  rw [SumFlags, ofInt_add_toInt]
  refine arithFlags_of_psw h ?_ decide_eq_true_iff (saddOverflow_iff a b)
  rw [← addFlags_ov]
  rfl

theorem differenceFlags_of_psw {a b psw : Word} (h : t.psw = (subFlags a b).apply psw) : DifferenceFlags a b t := by
  rw [DifferenceFlags, ofInt_sub_toInt]
  refine arithFlags_of_psw h ?_ decide_eq_true_iff (ssubOverflow_iff a b)
  rw [← subFlags_ov]
  rfl

/-! ### Sums and differences written (spec/42_arithmetic.md R241, R242, R244, R255, R256) -/

/-- A flag write that does not name SAT names arithmetic flags only. -/
theorem FlagWrite.get_of_not_arith {w : FlagWrite} (hw : w.sat = none) (f : Flag) (hf : f ∉ [Flag.cy, .ov, .s, .z]) :
    w.get f = none := by
  cases f with
  | np | ep | id => rfl
  | sat => exact hw
  | cy | ov | s | z => simp at hf

theorem writesSum_writeResult (r : Reg) (a b len : Word) :
    WritesSum r a b len s ((s.writeResult r (a + b) (addFlags a b)).advance len) :=
  ⟨ofInt_add_toInt a b ▸ gpr_writeResult s r _ _ len, sumFlags_of_psw rfl, rfl,
    frame_writeResult s r _ _ len _ (FlagWrite.get_of_not_arith rfl), SameMemory.of_fields rfl rfl⟩

theorem writesDifference_writeResult (r : Reg) (a b len : Word) :
    WritesDifference r a b len s ((s.writeResult r (a - b) (subFlags a b)).advance len) :=
  ⟨ofInt_sub_toInt a b ▸ gpr_writeResult s r _ _ len, differenceFlags_of_psw rfl, rfl,
    frame_writeResult s r _ _ len _ (FlagWrite.get_of_not_arith rfl), SameMemory.of_fields rfl rfl⟩

theorem comparesDifference_setFlags (a b len : Word) :
    ComparesDifference a b len s ((s.setFlags (subFlags a b)).advance len) :=
  ⟨differenceFlags_of_psw rfl, rfl, frame_setFlags s _ len _ (FlagWrite.get_of_not_arith rfl),
    SameMemory.of_fields rfl rfl⟩

/-- Settles O19: each form writes its sum with `addFlags`. -/
theorem additionsWriteSumAndFlags : Obligations.AdditionsWriteSumAndFlags := by
  intro s reg1 reg2 imm5 imm16
  exact ⟨⟨rfl, _, rfl, writesSum_writeResult reg2 _ _ _⟩, ⟨rfl, _, rfl, writesSum_writeResult reg2 _ _ _⟩,
    ⟨rfl, _, rfl, writesSum_writeResult reg2 _ _ _⟩⟩

/-- Settles O20: as O19 with `subFlags`; CMP writes the flags alone. -/
theorem subtractionsWriteDifferenceAndFlags : Obligations.SubtractionsWriteDifferenceAndFlags := by
  intro s reg1 reg2 imm5
  exact ⟨⟨rfl, _, rfl, writesDifference_writeResult reg2 _ _ _⟩, ⟨rfl, _, rfl, writesDifference_writeResult reg2 _ _ _⟩,
    ⟨rfl, _, rfl, comparesDifference_setFlags _ _ _⟩, ⟨rfl, _, rfl, comparesDifference_setFlags _ _ _⟩⟩

/-! ### Quotients and remainders (spec/42_arithmetic.md R250) -/

/-- What a division by anything but 0 writes: its quotient and remainder, and the flags of the quotient with OV. -/
def Division.ofQuotient (q m : Word) (ov : Bool) : Division :=
  { quotient := q, remainder := m, flags := { divFlags q with ov := some ov }, used := 0 }

section Outcomes

variable {draws : Nat} {a b : Word}

theorem divideSigned_of_zero (hb : b = 0#32) : divideSigned draws a b = divideByZero draws := if_pos hb

theorem divideUnsigned_of_zero (hb : b = 0#32) : divideUnsigned draws a b = divideByZero draws := if_pos hb

theorem divideSigned_of_overflow (ha : a = 0x80000000#32) (hb : b = 0xFFFFFFFF#32) :
    divideSigned draws a b = .ofQuotient 0x80000000#32 0#32 true := by
  subst ha hb
  rfl

theorem divideSigned_of_defined (hb : b ≠ 0#32) (hov : ¬ (a = 0x80000000#32 ∧ b = 0xFFFFFFFF#32)) :
    divideSigned draws a b = .ofQuotient (a.sdiv b) (a.srem b) false := by
  have hq : BitVec.ofInt 32 (a.toInt.tdiv b.toInt) = a.sdiv b := by
    rw [← BitVec.toInt_sdiv_of_ne_or_ne a b (not_and_or.mp hov), BitVec.ofInt_toInt]
  have hm : BitVec.ofInt 32 (a.toInt.tmod b.toInt) = a.srem b := by
    rw [← BitVec.toInt_srem, BitVec.ofInt_toInt]
  rw [divideSigned, if_neg hb, if_neg hov, hq, hm]
  rfl

theorem divideUnsigned_of_ne_zero (hb : b ≠ 0#32) :
    divideUnsigned draws a b = .ofQuotient (a / b) (a % b) false := by
  rw [divideUnsigned, if_neg hb, ← BitVec.udiv_def, ← BitVec.umod_def]
  rfl

theorem toInt_ne_zero {v : Word} (h : v ≠ 0#32) : v.toInt ≠ 0 := BitVec.toInt_ne.mpr h

/-- A remainder that is not 0 has the dividend's sign, as the quotient is truncated toward zero (D20). -/
theorem signedDivision_sdiv_srem (hb : b ≠ 0#32) (hov : ¬ (a = 0x80000000#32 ∧ b = 0xFFFFFFFF#32)) :
    SignedDivision a b (a.sdiv b) (a.srem b) := by
  have hm : (a.srem b).toInt = a.toInt.tmod b.toInt := BitVec.toInt_srem a b
  rw [SignedDivision, BitVec.toInt_sdiv_of_ne_or_ne a b (not_and_or.mp hov), hm]
  refine ⟨(Int.tdiv_mul_add_tmod _ _).symm, ?smaller, fun hne => ?sign⟩
  case smaller =>
    rw [Int.natAbs_tmod]
    exact Nat.mod_lt _ (Int.natAbs_pos.mpr (toInt_ne_zero hb))
  case sign =>
    have hndvd : ¬ b.toInt ∣ a.toInt := fun hdvd => toInt_ne_zero hne (hm.trans (Int.tmod_eq_zero_of_dvd hdvd))
    rw [← Int.sign_eq_neg_one_iff_neg, Int.sign_tmod, if_neg hndvd, Int.sign_eq_neg_one_iff_neg]

theorem unsignedDivision_udiv_umod (hb : b ≠ 0#32) : UnsignedDivision a b (a / b) (a % b) := by
  rw [UnsignedDivision, BitVec.toNat_udiv, BitVec.toNat_umod]
  exact ⟨(Nat.div_add_mod' _ _).symm, Nat.mod_lt _ (BitVec.toNat_pos_of_ne_zero hb)⟩

end Outcomes

/-! ### Writing a division (spec/42_arithmetic.md R250(a), R252) -/

section Writing

variable {d : Division} {q m : Word} {ov : Bool} {draws : Nat}

/-- A flag write that names neither SAT nor CY names a division's flags only (R250). -/
theorem FlagWrite.get_of_not_division {w : FlagWrite} (hsat : w.sat = none) (hcy : w.cy = none) (f : Flag)
    (hf : f ∉ [Flag.ov, .s, .z]) : w.get f = none := by
  cases f with
  | np | ep | id => rfl
  | sat => exact hsat
  | cy => exact hcy
  | ov | s | z => simp at hf

theorem Frame.advance {regs : List Reg} {flags : List Flag} {special : List (BitVec 5)}
    (h : Frame regs flags special s t) (len : Word) : Frame regs flags special s (t.advance len) := { h with }

theorem frame_writeQuotient (quot : Reg) (hsat : d.flags.sat = none) (hcy : d.flags.cy = none) :
    Frame [quot] [.ov, .s, .z] [] s (s.writeQuotient quot d) := by
  refine Frame.of_update rfl (fun f hf => ?_) (fun _ hk => getLsbD_apply d.flags s.psw hk) rfl
  rw [State.writeQuotient_psw, flagOf_apply, FlagWrite.get_of_not_division hsat hcy f hf, Option.getD_none]

theorem frame_writeDivision (quot rem : Reg) (hsat : d.flags.sat = none) (hcy : d.flags.cy = none) :
    Frame [quot, rem] [.ov, .s, .z] [] s (s.writeDivision quot rem d) :=
  (frame_writeQuotient quot hsat hcy).trans (frame_setReg rem d.remainder)

theorem quotientFlags_of_psw (h : d = .ofQuotient q m ov) (ht : t.psw = d.flags.apply s.psw) :
    flagOf t.psw .ov = ov ∧ flagOf t.psw .s = q.getLsbD 31 ∧ (flagOf t.psw .z = true ↔ q = 0#32) := by
  refine ⟨?_, ?_, ?_⟩ <;> rw [ht, flagOf_apply, h]
  · rfl
  · exact BitVec.msb_eq_getLsbD_last q
  · exact beq_iff_eq

theorem writesQuotient_of_eq (quot : Reg) (h : d = .ofQuotient q m ov) :
    WritesQuotient quot q ov s ((s.writeQuotient quot d).advance 2#32) := by
  obtain ⟨hov, hs, hz⟩ := quotientFlags_of_psw h (State.writeQuotient_psw s quot d)
  subst h
  exact ⟨State.gpr_setReg_self _ _ _, hov, hs, hz, rfl, (frame_writeQuotient quot rfl rfl).advance _,
    SameMemory.of_fields rfl rfl⟩

/-- The remainder is written after the quotient, so it wins where both go to one register (R250(a)). -/
theorem writesDivision_of_eq (quot rem : Reg) (h : d = .ofQuotient q m ov) :
    WritesDivision quot rem q m ov s ((s.writeDivision quot rem d).advance 4#32) := by
  obtain ⟨hov, hs, hz⟩ := quotientFlags_of_psw h (State.writeDivision_psw s quot rem d)
  subst h
  have hquot (hne : quot ≠ rem) : (s.writeDivision quot rem (.ofQuotient q m ov)).gpr quot = written quot q :=
    (State.gpr_setReg_other _ hne m).trans (State.gpr_setReg_self _ quot q)
  exact ⟨State.gpr_setReg_self _ _ _, hquot, hov, hs, hz, rfl, (frame_writeDivision quot rem rfl rfl).advance _,
    SameMemory.of_fields rfl rfl⟩

theorem dividedByZero_writeQuotient (quot : Reg) (h : d = divideByZero draws) :
    DividedByZero [quot] 2#32 s ((s.writeQuotient quot d).advance 2#32) := by
  subst h
  exact ⟨flagOf_apply _ _ _, rfl, (frame_writeQuotient quot rfl rfl).advance _, SameMemory.of_fields rfl rfl⟩

theorem dividedByZero_writeDivision (quot rem : Reg) (h : d = divideByZero draws) :
    DividedByZero [quot, rem] 4#32 s ((s.writeDivision quot rem d).advance 4#32) := by
  subst h
  exact ⟨flagOf_apply _ _ _, rfl, (frame_writeDivision quot rem rfl rfl).advance _, SameMemory.of_fields rfl rfl⟩

end Writing

/-! ### The divisions (spec/42_arithmetic.md R250 to R254) -/

/-- Settles O24: away from 0 and the overflow the outcome is `sdiv` and `srem`. -/
theorem signedDivisionsDivide : Obligations.SignedDivisionsDivide := by
  intro s reg1 reg2 reg3 a b h
  refine ⟨fun hb hov => ?_, fun hh hov => ⟨?_, ?_⟩⟩
  · exact ⟨rfl, _, rfl, _, _, signedDivision_sdiv_srem hb hov,
      writesDivision_of_eq reg2 reg3 (divideSigned_of_defined hb hov)⟩
  · exact ⟨rfl, _, rfl, _, _, signedDivision_sdiv_srem hh hov,
      writesDivision_of_eq reg2 reg3 (divideSigned_of_defined hh hov)⟩
  · exact ⟨rfl, _, rfl, _, _, signedDivision_sdiv_srem hh hov,
      writesQuotient_of_eq reg2 (divideSigned_of_defined hh hov)⟩

/-- Settles O25: away from 0 the outcome is `udiv` and `umod`. -/
theorem unsignedDivisionsDivide : Obligations.UnsignedDivisionsDivide := by
  intro s reg1 reg2 reg3 a b h
  refine ⟨fun hb => ?_, fun hh => ?_⟩
  · exact ⟨rfl, _, rfl, _, _, unsignedDivision_udiv_umod hb,
      writesDivision_of_eq reg2 reg3 (divideUnsigned_of_ne_zero hb)⟩
  · exact ⟨rfl, _, rfl, _, _, unsignedDivision_udiv_umod hh,
      writesDivision_of_eq reg2 reg3 (divideUnsigned_of_ne_zero hh)⟩

/-- Settles O26: the signed halfword FFFFh is -1 (R252), so DIVH overflows as DIV does. -/
theorem divisionOverflows : Obligations.DivisionOverflows := by
  intro s reg1 reg2 reg3 ha
  refine ⟨fun hb => ?_, fun hlow => ?_⟩
  · exact ⟨_, rfl, writesDivision_of_eq reg2 reg3 (divideSigned_of_overflow ha hb)⟩
  · have hh : sextLow (s.gpr reg1) = 0xFFFFFFFF#32 := by
      rw [sextLow, lowHalf, hlow]
      rfl
    exact ⟨⟨_, rfl, writesDivision_of_eq reg2 reg3 (divideSigned_of_overflow ha hh)⟩,
      ⟨_, rfl, writesQuotient_of_eq reg2 (divideSigned_of_overflow ha hh)⟩⟩

/-- Settles O27: a halfword divisor is 0 in either extension. -/
theorem divisionsByZeroRun : Obligations.DivisionsByZeroRun := by
  intro s reg1 reg2 reg3 hlow
  have hsigned : sextLow (s.gpr reg1) = 0#32 := by
    rw [sextLow, lowHalf, hlow]
    rfl
  have hunsigned : zext (lowHalf (s.gpr reg1)) = 0#32 := by
    rw [lowHalf, hlow]
    rfl
  refine ⟨?divhReg2, ?divhReg3, ?divhu, fun hb => ⟨?div, ?divu⟩⟩
  case divhReg2 => exact ⟨_, rfl, dividedByZero_writeQuotient reg2 (divideSigned_of_zero hsigned)⟩
  case divhReg3 => exact ⟨_, rfl, dividedByZero_writeDivision reg2 reg3 (divideSigned_of_zero hsigned)⟩
  case divhu => exact ⟨_, rfl, dividedByZero_writeDivision reg2 reg3 (divideUnsigned_of_zero hunsigned)⟩
  case div => exact ⟨_, rfl, dividedByZero_writeDivision reg2 reg3 (divideSigned_of_zero hb)⟩
  case divu => exact ⟨_, rfl, dividedByZero_writeDivision reg2 reg3 (divideUnsigned_of_zero hb)⟩

end Sys2Proof.Machine
end

section
/-! Saturated operations (spec/43_saturated.md R270 to R276), O28. The model decides the range with comparisons; what it
stores is the word of the clamped result, and that word's signed value is the clamped result itself. -/

namespace Sys2Proof.Machine

variable {s : State}

/-! ### The clamped result (spec/43_saturated.md R270) -/

/-- `saturate` in the terms of `clamp`: the word stored, and whether the exact result was out of range. -/
theorem saturate_eq (e : Int) : saturate e = (BitVec.ofInt 32 (clamp e), decide (clamp e ≠ e)) := by
  unfold saturate
  split
  case isTrue habove =>
    have hclamp : clamp e = 2 ^ 31 - 1 := by unfold clamp; omega
    rw [hclamp, decide_eq_true (by omega)]
    rfl
  case isFalse hle =>
    split
    case isTrue hbelow =>
      have hclamp : clamp e = -2 ^ 31 := by unfold clamp; omega
      rw [hclamp, decide_eq_true (by omega)]
      rfl
    case isFalse hge =>
      have hclamp : clamp e = e := by unfold clamp; omega
      rw [hclamp, decide_eq_false (not_not_intro rfl)]

theorem toInt_ofInt_clamp (e : Int) : (BitVec.ofInt 32 (clamp e)).toInt = clamp e :=
  BitVec.toInt_ofInt_eq_self (by decide) (le_max_left _ _) (by unfold clamp; omega)

/-! ### A saturated result written (spec/43_saturated.md R270, R271) -/

/-- A saturated instruction names SAT, CY, OV, S and Z at most. -/
theorem saturatedFlags_get_eq_none (cy : Bool) (o : Word × Bool) (f : Flag) (hf : f ∉ [Flag.sat, .cy, .ov, .s, .z]) :
    (saturatedFlags cy o).get f = none := by
  cases f with
  | np | ep | id => rfl
  | sat | cy | ov | s | z => simp at hf

/-- SAT is cumulative: an overflow sets it, and nothing clears it (R271). -/
theorem saturatedFlags_sat_getD (cy : Bool) (o : Word × Bool) (old : Bool) :
    ((saturatedFlags cy o).get .sat).getD old = true ↔ old = true ∨ o.2 = true := by
  cases h : o.2 <;> simp [saturatedFlags, FlagWrite.get, h]

theorem writesSaturated_writeResult (r : Reg) (e : Int) (len : Word) (carries : Prop) [Decidable carries] :
    WritesSaturated r carries e len s
      ((s.writeResult r (saturate e).1 (saturatedFlags (decide carries) (saturate e))).advance len) := by
  rw [saturate_eq]
  refine ⟨gpr_writeResult s r _ _ len, ⟨?cy, ?ov, ?s, ?z⟩, ?sat, rfl,
    frame_writeResult s r _ _ len _ (saturatedFlags_get_eq_none _ _), SameMemory.of_fields rfl rfl⟩ <;>
    rw [flagOf_writeResult]
  case cy => exact decide_eq_true_iff
  case ov => exact decide_eq_true_iff
  case s =>
    have hneg := msb_iff_toInt_neg (BitVec.ofInt 32 (clamp e))
    rwa [toInt_ofInt_clamp] at hneg
  case z =>
    have hzero := BitVec.toInt_inj (x := BitVec.ofInt 32 (clamp e)) (y := 0#32)
    rw [toInt_ofInt_clamp] at hzero
    exact beq_iff_eq.trans hzero.symm
  case sat => rw [saturatedFlags_sat_getD, decide_eq_true_iff]

/-- Settles O28: each form saturates its exact result, and an extended immediate has the immediate's own value. -/
theorem saturatedResultsAreClamped : Obligations.SaturatedResultsAreClamped := by
  intro s reg1 reg2 imm5 imm16
  rw [← toInt_sext (by decide) imm5, ← toInt_sext (by decide) imm16]
  exact ⟨⟨rfl, _, rfl, writesSaturated_writeResult reg2 _ _ _⟩, ⟨rfl, _, rfl, writesSaturated_writeResult reg2 _ _ _⟩,
    ⟨rfl, _, rfl, writesSaturated_writeResult reg2 _ _ _⟩, ⟨rfl, _, rfl, writesSaturated_writeResult reg2 _ _ _⟩,
    ⟨rfl, _, rfl, writesSaturated_writeResult reg2 _ _ _⟩⟩

end Sys2Proof.Machine
end

section
/-! Logical operations, swaps, shifts and extensions (spec/44_logical.md R280 to R299), O29 to O32. The swaps and shifts
write one shape of result, a word with a carry; a shift's word and the last bit it moves out are quotients of the
operand by powers of two. -/

namespace Sys2Proof.Machine

variable {s t : State}

/-! ### Logical results (spec/44_logical.md R280) -/

theorem logicFlagsOf_of_psw {v psw : Word} (h : t.psw = (logicFlags v).apply psw) : LogicFlagsOf v t := by
  refine ⟨?ov, ?s, ?z⟩ <;> rw [h, flagOf_apply]
  case ov => rfl
  case s => exact BitVec.msb_eq_getLsbD_last v
  case z => exact beq_iff_eq

theorem writesLogic_writeResult (r : Reg) (v len : Word) :
    WritesLogic r v len s ((s.writeResult r v (logicFlags v)).advance len) :=
  ⟨gpr_writeResult s r _ _ len, logicFlagsOf_of_psw rfl, rfl,
    frame_writeResult s r _ _ len _ (FlagWrite.get_of_not_division rfl rfl), SameMemory.of_fields rfl rfl⟩

/-- Settles O29: each form writes its result with `logicFlags`; TST writes the flags alone. -/
theorem logicWritesResultAndFlags : Obligations.LogicWritesResultAndFlags := by
  intro s reg1 reg2 imm16
  refine ⟨⟨rfl, _, rfl, writesLogic_writeResult reg2 _ _⟩, ⟨rfl, _, rfl, writesLogic_writeResult reg2 _ _⟩,
    ⟨rfl, _, rfl, writesLogic_writeResult reg2 _ _⟩, ⟨rfl, _, rfl, writesLogic_writeResult reg2 _ _⟩,
    ⟨rfl, _, rfl, writesLogic_writeResult reg2 _ _⟩, ⟨rfl, _, rfl, ?tst⟩,
    ⟨rfl, _, rfl, writesLogic_writeResult reg2 _ _⟩, ⟨rfl, _, rfl, writesLogic_writeResult reg2 _ _⟩⟩
  case tst =>
    exact ⟨logicFlagsOf_of_psw rfl, rfl, frame_setFlags s _ _ _ (FlagWrite.get_of_not_division rfl rfl),
      SameMemory.of_fields rfl rfl⟩

/-! ### Results with a carry (spec/44_logical.md R283 to R285, R289) -/

/-- A swap or a shift, once its CY and Z are known for what they say. -/
theorem writesWithCarry_writeResult {w : FlagWrite} {v : Word} {cy z : Bool} {carries zero : Prop} (r : Reg)
    (len : Word) (hw : w = { cy := some cy, ov := some false, s := some v.msb, z := some z })
    (hcy : cy = true ↔ carries) (hz : z = true ↔ zero) :
    WritesWithCarry r v carries zero len s ((s.writeResult r v w).advance len) := by
  subst hw
  refine ⟨gpr_writeResult s r _ _ len, ?cy, ?ov, ?s, ?z, rfl,
    frame_writeResult s r _ _ len _ (FlagWrite.get_of_not_arith rfl), SameMemory.of_fields rfl rfl⟩ <;>
    rw [flagOf_writeResult]
  case cy => exact hcy
  case ov => rfl
  case s => exact BitVec.msb_eq_getLsbD_last v
  case z => exact hz

/-! ### Swaps (spec/44_logical.md R283 to R285) -/

/-- The first halfword of the swaps, whose low field is fixed to 0 (R283 to R285). -/
theorem fmtI_swap (r2 : Reg) : fmtI r2 0b111111#6 0#5 = r2 ++ 0b11111100000#11 := BitVec.append_assoc

/-- The carry of BSH and HSW: one of the two parts is 0. -/
theorem zero_among_two {n : Nat} (part : Nat → BitVec n) :
    (part 0 == 0#n || part 1 == 0#n) = true ↔ ∃ k < 2, part k = 0#n := by
  simp only [Bool.or_eq_true, beq_iff_eq, Nat.exists_lt_succ_right, Nat.not_lt_zero, false_and, exists_false, false_or]

/-- The carry of BSW: one of the four bytes is 0. -/
theorem zero_among_four {n : Nat} (part : Nat → BitVec n) :
    (part 0 == 0#n || part 1 == 0#n || part 2 == 0#n || part 3 == 0#n) = true ↔ ∃ k < 4, part k = 0#n := by
  simp only [Bool.or_eq_true, beq_iff_eq, Nat.exists_lt_succ_right, Nat.not_lt_zero, false_and, exists_false, false_or]

theorem bytes_append (a : Word) (k : Nat) : byteOf a (k + 1) ++ byteOf a k = a.extractLsb' (8 * k) 16 :=
  BitVec.extractLsb'_append_extractLsb'_eq_extractLsb' rfl

/-- HSW exchanges halfwords (R285): byte by byte, both bytes of a halfword stay together. -/
theorem halves_exchanged (a : Word) :
    a.extractLsb' 0 16 ++ a.extractLsb' 16 16 = byteOf a 1 ++ byteOf a 0 ++ byteOf a 3 ++ byteOf a 2 := by
  rw [BitVec.append_assoc, bytes_append a 0, bytes_append a 2]
  rfl

/-- Settles O30: each form writes its exchanged parts, and its carry is one of the parts being 0. -/
theorem swapsExchangeBytes : Obligations.SwapsExchangeBytes := by
  intro s reg2 reg3
  have hbsh : encode (.bsh reg2 reg3) = [reg2 ++ 0b11111100000#11, reg3 ++ 0b01101000010#11] := by
    rw [encode, fmtI_swap]; rfl
  have hbsw : encode (.bsw reg2 reg3) = [reg2 ++ 0b11111100000#11, reg3 ++ 0b01101000000#11] := by
    rw [encode, fmtI_swap]; rfl
  have hhsw : encode (.hsw reg2 reg3) = [reg2 ++ 0b11111100000#11, reg3 ++ 0b01101000100#11] := by
    rw [encode, fmtI_swap]; rfl
  refine ⟨⟨hbsh, _, rfl, ?bsh⟩, ⟨hbsw, _, rfl, ?bsw⟩, ⟨hhsw, _, rfl, ?hsw⟩⟩
  case bsh => exact writesWithCarry_writeResult reg3 _ rfl (zero_among_two (byteOf _)) beq_iff_eq
  case bsw => exact writesWithCarry_writeResult reg3 _ rfl (zero_among_four (byteOf _)) beq_iff_eq
  case hsw =>
    rw [halves_exchanged]
    exact writesWithCarry_writeResult reg3 _ rfl (zero_among_two fun k => BitVec.extractLsb' (16 * k) 16 _) beq_iff_eq

/-! ### The word a shift leaves (spec/44_logical.md R289) -/

theorem toInt_sshiftRight_eq_div (a : Word) (n : Nat) : (a.sshiftRight n).toInt = a.toInt / 2 ^ n := by
  rw [BitVec.toInt_sshiftRight, Int.shiftRight_eq_div_pow, Nat.cast_pow, Nat.cast_ofNat]

theorem toNat_shiftLeft_eq_mul (a : Word) (n : Nat) : (a <<< n).toNat = a.toNat * 2 ^ n % 2 ^ 32 := by
  rw [BitVec.toNat_shiftLeft, Nat.shiftLeft_eq]

theorem toNat_ushiftRight_eq_div (a : Word) (n : Nat) : (a >>> n).toNat = a.toNat / 2 ^ n := by
  rw [BitVec.toNat_ushiftRight, Nat.shiftRight_eq_div_pow]

theorem beq_zero_iff_toInt (r : Word) : (r == 0#32) = true ↔ r.toInt = 0 :=
  beq_iff_eq.trans BitVec.toInt_inj.symm

theorem beq_zero_iff_toNat (r : Word) : (r == 0#32) = true ↔ r.toNat = 0 :=
  beq_iff_eq.trans BitVec.toNat_inj.symm

/-! ### The last bit a shift moves out (spec/44_logical.md R289) -/

theorem getLsbD_iff_toNat (a : Word) (k : Nat) : a.getLsbD k = true ↔ a.toNat / 2 ^ k % 2 = 1 := by
  rw [← BitVec.testBit_toNat, Nat.testBit_eq_decide_div_mod_eq, decide_eq_true_iff]

/-- A bit of a signed word, the sign bit included: the word's arithmetic shift is odd. -/
theorem getLsbD_iff_toInt (a : Word) {k : Nat} (hk : k < 32) : a.getLsbD k = true ↔ a.toInt / 2 ^ k % 2 = 1 := by
  have hbit : (a.sshiftRight k).getLsbD 0 = a.getLsbD k := by
    rw [BitVec.getLsbD_sshiftRight]
    simp [hk]
  rw [← hbit, getLsbD_iff_toNat, ← toInt_sshiftRight_eq_div, BitVec.toInt_eq_toNat_cond]
  omega

theorem carryRight_iff_toNat (a : Word) (n : Nat) :
    carryRight a n = true ↔ 0 < n ∧ a.toNat / 2 ^ (n - 1) % 2 = 1 := by
  rw [carryRight, Bool.and_eq_true, decide_eq_true_iff, getLsbD_iff_toNat]

theorem carryRight_iff_toInt (a : Word) {n : Nat} (hn : n < 32) :
    carryRight a n = true ↔ 0 < n ∧ a.toInt / 2 ^ (n - 1) % 2 = 1 := by
  rw [carryRight, Bool.and_eq_true, decide_eq_true_iff, getLsbD_iff_toInt a (by omega)]

/-- Bit 32 - n stands at bit 32 of the exact product; the product with n = 0 has no such bit. -/
theorem carryLeft_iff (a : Word) {n : Nat} (hn : n < 32) :
    carryLeft a n = true ↔ a.toNat * 2 ^ n / 2 ^ 32 % 2 = 1 := by
  rw [carryLeft, Bool.and_eq_true, decide_eq_true_iff, getLsbD_iff_toNat]
  cases n with
  | zero =>
    have hlt : a.toNat < 2 ^ 32 := a.isLt
    omega
  | succ m =>
    have hpow : 2 ^ 32 = 2 ^ (32 - (m + 1)) * 2 ^ (m + 1) := by rw [← Nat.pow_add, Nat.sub_add_cancel hn.le]
    rw [hpow, Nat.mul_div_mul_right _ _ (Nat.two_pow_pos _)]
    exact and_iff_right m.succ_pos

/-! ### Shifts written (spec/44_logical.md R290 to R292) -/

theorem sshiftRight_writesWithCarry (r : Reg) (a : Word) {n : Nat} (hn : n < 32) (len : Word) :
    WritesWithCarry r (BitVec.ofInt 32 (a.toInt / 2 ^ n)) (0 < n ∧ a.toInt / 2 ^ (n - 1) % 2 = 1)
      (a.toInt / 2 ^ n = 0) len s
      ((s.writeResult r (a.sshiftRight n) (shiftFlags (carryRight a n) (a.sshiftRight n))).advance len) := by
  rw [← toInt_sshiftRight_eq_div, BitVec.ofInt_toInt]
  exact writesWithCarry_writeResult r len rfl (carryRight_iff_toInt a hn) (beq_zero_iff_toInt _)

theorem shiftLeft_writesWithCarry (r : Reg) (a : Word) {n : Nat} (hn : n < 32) (len : Word) :
    WritesWithCarry r (BitVec.ofNat 32 (a.toNat * 2 ^ n)) (a.toNat * 2 ^ n / 2 ^ 32 % 2 = 1)
      (a.toNat * 2 ^ n % 2 ^ 32 = 0) len s
      ((s.writeResult r (a <<< n) (shiftFlags (carryLeft a n) (a <<< n))).advance len) := by
  have hword : BitVec.ofNat 32 (a.toNat * 2 ^ n) = a <<< n := BitVec.eq_of_toNat_eq (toNat_shiftLeft_eq_mul a n).symm
  rw [hword, ← toNat_shiftLeft_eq_mul]
  exact writesWithCarry_writeResult r len rfl (carryLeft_iff a hn) (beq_zero_iff_toNat _)

theorem ushiftRight_writesWithCarry (r : Reg) (a : Word) (n : Nat) (len : Word) :
    WritesWithCarry r (BitVec.ofNat 32 (a.toNat / 2 ^ n)) (0 < n ∧ a.toNat / 2 ^ (n - 1) % 2 = 1)
      (a.toNat / 2 ^ n = 0) len s
      ((s.writeResult r (a >>> n) (shiftFlags (carryRight a n) (a >>> n))).advance len) := by
  rw [← toNat_ushiftRight_eq_div, BitVec.ofNat_toNat, BitVec.setWidth_eq]
  exact writesWithCarry_writeResult r len rfl (carryRight_iff_toNat a n) (beq_zero_iff_toNat _)

/-- Settles O31: a count, from a register or an imm5, is below 32. -/
theorem shiftsScaleByPowersOfTwo : Obligations.ShiftsScaleByPowersOfTwo := by
  intro s reg1 reg2 imm5
  have hreg : (s.gpr reg1).toNat % 32 < 32 := Nat.mod_lt _ (by decide)
  have himm : imm5.toNat < 32 := imm5.isLt
  exact ⟨⟨rfl, _, rfl, sshiftRight_writesWithCarry reg2 _ hreg _⟩,
    ⟨rfl, _, rfl, sshiftRight_writesWithCarry reg2 _ himm _⟩, ⟨rfl, _, rfl, shiftLeft_writesWithCarry reg2 _ hreg _⟩,
    ⟨rfl, _, rfl, shiftLeft_writesWithCarry reg2 _ himm _⟩, ⟨rfl, _, rfl, ushiftRight_writesWithCarry reg2 _ _ _⟩,
    ⟨rfl, _, rfl, ushiftRight_writesWithCarry reg2 _ _ _⟩⟩

/-! ### Extensions (spec/44_logical.md R293, R294, R298, R299) -/

theorem zext_low (a : Word) (n : Nat) : zext (a.extractLsb' 0 n) = BitVec.ofNat 32 (a.toNat % 2 ^ n) := by
  rw [zext, ← BitVec.ofNat_toNat, BitVec.extractLsb'_toNat, Nat.shiftRight_zero]

/-- Settles O32: each form writes one register; a sign extension is the word of the signed value by definition. -/
theorem extensionsExtendInPlace : Obligations.ExtensionsExtendInPlace := by
  intro s reg1
  exact ⟨⟨rfl, _, rfl, writesOnly_setReg s reg1 _ _⟩, ⟨rfl, _, rfl, writesOnly_setReg s reg1 _ _⟩,
    ⟨rfl, _, rfl, zext_low _ 8 ▸ writesOnly_setReg s reg1 _ _⟩,
    ⟨rfl, _, rfl, zext_low _ 16 ▸ writesOnly_setReg s reg1 _ _⟩⟩

end Sys2Proof.Machine
end

section
/-! Branches (spec/45_branch.md R310 to R314), O33 and O34. A jump writes the pc and nothing else that a program can
read, after whatever the instruction did before it. -/

namespace Sys2Proof.Machine

variable {s t : State}

/-! ### Nothing but the pc (spec/45_branch.md R310) -/

theorem Frame.refl (s : State) : Frame [] [] [] s s :=
  Frame.of_update_psw rfl (fun _ _ => rfl) (fun _ _ => rfl) rfl

theorem Frame.jump {regs : List Reg} {flags : List Flag} {special : List (BitVec 5)}
    (h : Frame regs flags special s t) (target : Word) : Frame regs flags special s (t.jump target) := { h with }

theorem jumpsTo_jump (target : Word) :
    JumpsTo target (s.jump target) ∧ Frame [] [] [] s (s.jump target) ∧ SameMemory s (s.jump target) :=
  ⟨rfl, (Frame.refl s).jump target, SameMemory.of_fields rfl rfl⟩

theorem advanced_frame_advance (len : Word) :
    Advanced len s (s.advance len) ∧ Frame [] [] [] s (s.advance len) ∧ SameMemory s (s.advance len) :=
  ⟨rfl, (Frame.refl s).advance len, SameMemory.of_fields rfl rfl⟩

/-! ### Bcond (spec/45_branch.md R311) -/

theorem exec_bcond_of_holds {c : Cond} (disp9 : BitVec 9) (hc : condHolds c s.psw = true) :
    exec (.bcond c disp9) s = .next (s.jump (s.pc + disp9.signExtend 32)) := if_pos hc

theorem exec_bcond_of_not_holds {c : Cond} (disp9 : BitVec 9) (hc : ¬ condHolds c s.psw = true) :
    exec (.bcond c disp9) s = .next (s.advance 2#32) := if_neg hc

theorem runs_bcond (c : Cond) (disp9 : BitVec 9) :
    Runs (.bcond c disp9) s (fun t =>
      (if condHolds c s.psw then JumpsTo (s.pc + disp9.signExtend 32) t else Advanced 2#32 s t) ∧
        Frame [] [] [] s t ∧ SameMemory s t) := by
  by_cases hc : condHolds c s.psw = true
  · simp only [if_pos hc]
    exact ⟨_, exec_bcond_of_holds disp9 hc, jumpsTo_jump _⟩
  · simp only [if_neg hc]
    exact ⟨_, exec_bcond_of_not_holds disp9 hc, advanced_frame_advance _⟩

/-! ### The obligations -/

/-- Settles O33: JMP and JR always jump, Bcond where its condition holds. -/
theorem branchesGoToTheirTargets : Obligations.BranchesGoToTheirTargets := by
  intro s c disp9 disp22 reg1
  exact ⟨⟨rfl, runs_bcond c disp9⟩, ⟨rfl, _, rfl, jumpsTo_jump _⟩, ⟨rfl, _, rfl, jumpsTo_jump _⟩⟩

/-- Settles O34: the link is written first, its mask being the pc's own (D22), and the jump keeps it. -/
theorem jarlLinksAndJumps : Obligations.JarlLinksAndJumps := by
  intro s disp22 reg2
  have hlink : ((s.setReg reg2 (s.nextPC 4#32)).jump (s.pc + disp22.signExtend 32)).gpr reg2 =
      written reg2 ((s.pc + 4#32) &&& 0x03FFFFFE#32) := State.gpr_setReg_self s reg2 _
  exact ⟨rfl, _, rfl, hlink, rfl, (frame_setReg reg2 _).jump _, SameMemory.of_fields rfl rfl⟩

end Sys2Proof.Machine
end

section
/-! Bit manipulation (spec/46_bit_manipulation.md R321 to R325), O35 and O36. Every form is the one shared operation,
`modifyBit` or `testBit`, at its own address and bit number; what that operation does is said in the laws of data
access. -/

namespace Sys2Proof.Machine

/-- Settles O35: SET1, NOT1 and CLR1 are `modifyBit` with their own new bit, each with a bit number that the encoding
or a register holds. -/
theorem bitInstructionsRewriteOneBit : Obligations.BitInstructionsRewriteOneBit := by
  intro s bit3 disp16 reg1 reg2 hwf a n
  have hdisp (new : Bool → Bool) : RewritesBit a bit3.toNat new s ((s.modifyBit a bit3.toNat new).advance 4#32) :=
    rewritesBit_modifyBit s hwf a bit3.toNat new
  have hreg (new : Bool → Bool) : RewritesBit (s.gpr reg1) n new s ((s.modifyBit (s.gpr reg1) n new).advance 4#32) :=
    rewritesBit_modifyBit s hwf (s.gpr reg1) n new
  refine ⟨?set1Disp, ?set1Reg, ?not1Disp, ?not1Reg, ?clr1Disp, ?clr1Reg⟩
  case set1Disp | not1Disp | clr1Disp => exact ⟨rfl, _, rfl, hdisp _⟩
  case set1Reg | not1Reg | clr1Reg => exact ⟨rfl, _, rfl, hreg _⟩

/-- Settles O36: both forms of TST1 are `testBit`. -/
theorem bitTestsSetZ : Obligations.BitTestsSetZ := by
  intro s bit3 disp16 reg1 reg2
  exact ⟨⟨rfl, _, rfl, testsBit_testBit s _ bit3.toNat⟩, ⟨rfl, _, rfl, testsBit_testBit s (s.gpr reg1) _⟩⟩

end Sys2Proof.Machine
end

section
/-! Special instructions (spec/47_special.md R330 to R339) without a stack frame, O37 to O39 and O41 to O43, and DBRET
(spec/48_debug.md R361): jumps through a table, returns, and what moves a system register. -/

namespace Sys2Proof.Machine

variable {s t u : State}

/-! ### Table jumps (spec/47_special.md R330, R339) -/

theorem shiftLeft_one_eq_two_mul (v : Word) : v <<< 1 = 2#32 * v := by
  rw [BitVec.shiftLeft_eq_mul_twoPow, BitVec.mul_comm]
  rfl

/-- SWITCH's index into its table, in bytes. -/
theorem shiftLeft_one_eq_ofNat (v : Word) : v <<< 1 = BitVec.ofNat 32 (2 * v.toNat) := by
  rw [shiftLeft_one_eq_two_mul, BitVec.ofNat_mul, BitVec.ofNat_toNat, BitVec.setWidth_eq]

/-- CALLT's index into its table, in bytes. -/
theorem zext_shiftLeft_one (imm6 : BitVec 6) : zext imm6 <<< 1 = BitVec.ofNat 32 (2 * imm6.toNat) := by
  rw [shiftLeft_one_eq_ofNat, zext, BitVec.toNat_setWidth_of_le (by decide)]

/-- SWITCH's table entry is a signed halfword count. -/
theorem sext_shiftLeft_one (h : Half) : sext h <<< 1 = BitVec.ofInt 32 (2 * h.toInt) := by
  rw [shiftLeft_one_eq_two_mul, BitVec.ofInt_mul]
  rfl

theorem frame_afterRead (n : Nat) (a : Word) : Frame [] [] [] s (s.afterRead n a) := { Frame.refl s with }

/-- CALLT saves the next pc and the PSW in its own pair. -/
theorem frame_callt (pc psw : Word) (draws : Nat) :
    Frame [] [] [16#5, 17#5] s { s with ctpc := pc, ctpsw := psw, draws := draws } where
  __ := Frame.refl s
  special n _ hn := by
    simp only [List.mem_cons, List.not_mem_nil, or_false, not_or] at hn
    obtain ⟨hctpc, hctpsw⟩ := hn
    apply State.sysReg_of_field
    case h16 => exact fun e => absurd e hctpc
    case h17 => exact fun e => absurd e hctpsw
    all_goals exact fun _ => rfl

/-- Settles O37: the halfword read is one that the table's address could give. -/
theorem tableJumpsReadTheirTables : Obligations.TableJumpsReadTheirTables := by
  intro s imm6 reg1 base
  have hcallt : encode (.callt imm6) = [0b0000001000#10 ++ imm6] := by rw [encode, fmtI_callt]
  have hread (a : Word) := s.couldRead_byteRead a 2
  refine ⟨⟨hcallt, _, rfl, rfl, rfl, ⟨_, hread _, ?_⟩, (frame_callt _ _ _).jump _, SameMemory.of_fields rfl rfl⟩,
    ⟨rfl, _, rfl, ⟨_, hread _, ?_⟩, (frame_afterRead _ _).jump _, SameMemory.of_fields rfl rfl⟩⟩
  · rw [← zext_shiftLeft_one, ← State.loadHalf_eq]
    rfl
  · rw [← shiftLeft_one_eq_ofNat, ← State.loadHalf_eq, ← sext_shiftLeft_one]
    rfl

/-! ### Returns (spec/47_special.md R331, R333; spec/60_exceptions.md R440, R441) -/

/-- What a return to a saved pair does. -/
theorem returnTo_returns (s : State) (pc psw : Word) :
    JumpsTo pc (s.returnTo pc psw) ∧ (s.returnTo pc psw).psw = psw &&& 0xFF#32 ∧
      FrameButPSW [] [] s (s.returnTo pc psw) ∧ SameMemory s (s.returnTo pc psw) :=
  have hspecial (n : BitVec 5) (h5 : n ≠ 5#5) : (s.returnTo pc psw).sysReg n = s.sysReg n :=
    State.sysReg_of_fields (s := s) (t := s.returnTo pc psw) rfl rfl rfl rfl rfl rfl rfl rfl rfl rfl rfl n h5
  ⟨rfl, rfl, ⟨fun _ _ => rfl, fun n h5 _ => hspecial n h5, rfl, rfl, rfl, rfl⟩, SameMemory.of_fields rfl rfl⟩

/-- DIR is one system register. -/
theorem FrameButPSW.of_setDir {dir : Word} (h : FrameButPSW [] [] ({ s with dir := dir } : State) t) :
    FrameButPSW [] [21#5] s t where
  __ := h
  special n h5 hn := (h.special n h5 (by simp)).trans <| by
    have hdir : n ≠ 21#5 := by simpa using hn
    apply State.sysReg_of_field
    case h21 => exact fun e => absurd e hdir
    all_goals exact fun _ => rfl

/-- Settles O38: both are returns, DBRET with DM cleared before. -/
theorem calltAndDebugReturnsRestore : Obligations.CalltAndDebugReturnsRestore := by
  intro s
  obtain ⟨hpc, hpsw, hframe, hmem⟩ := returnTo_returns { s with dir := withDM false s.dir } s.dbpc s.dbpsw
  exact ⟨⟨rfl, _, rfl, returnTo_returns s s.ctpc s.ctpsw⟩, ⟨rfl, _, rfl, hpc, hpsw, rfl, hframe.of_setDir, hmem⟩⟩

theorem exec_reti_of_ei (h : flagOf s.psw .ep = true ∨ flagOf s.psw .np = false) :
    exec .reti s = .next (s.returnTo s.eipc s.eipsw) := by
  rcases h with hep | hnp
  · exact if_pos hep
  · simp [exec, execReti, hnp]

theorem exec_reti_of_fe (hep : flagOf s.psw .ep = false) (hnp : flagOf s.psw .np = true)
    (h1 : s.ecr.extractLsb' 16 16 ≠ 0x0020#16) (h2 : s.ecr.extractLsb' 16 16 ≠ 0x0030#16) :
    exec .reti s = .next (s.returnTo s.fepc s.fepsw) := by
  simp [exec, execReti, hep, hnp, State.fromFinalNMI, h1, h2]

/-- Settles O39. -/
theorem retiSelectsTheSavedPair : Obligations.RetiSelectsTheSavedPair := fun s =>
  ⟨rfl, fun h => ⟨_, exec_reti_of_ei h, returnTo_returns s _ _⟩,
    fun hep hnp h1 h2 => ⟨_, exec_reti_of_fe hep hnp h1 h2, returnTo_returns s _ _⟩⟩

/-! ### DI, EI, NOP and HALT (spec/47_special.md R332, R334, R337, R338) -/

/-- One flag of the PSW written. -/
theorem frame_withFlag (f : Flag) (b : Bool) : Frame [] [f] [] s { s with psw := withFlag f b s.psw } :=
  Frame.of_update_psw rfl
    (fun g hg => (flagOf_withFlag f g b s.psw).trans (if_neg (List.ne_of_not_mem_cons hg)))
    (fun _ hk => getLsbD_withFlag f b s.psw hk) rfl

/-- Settles O41: DI and EI write one flag, NOP and HALT none. -/
theorem interruptControlHaltAndNop : Obligations.InterruptControlHaltAndNop := by
  intro s
  have hid (b : Bool) : flagOf (withFlag .id b s.psw) .id = b := flagOf_withFlag .id .id b s.psw
  exact ⟨⟨rfl, _, rfl, hid true, rfl, (frame_withFlag _ _).advance _, SameMemory.of_fields rfl rfl⟩,
    ⟨rfl, _, rfl, hid false, rfl, (frame_withFlag _ _).advance _, SameMemory.of_fields rfl rfl⟩,
    ⟨rfl, _, rfl, advanced_frame_advance _⟩, ⟨rfl, _, rfl, rfl⟩⟩

/-! ### LDSR and STSR (spec/47_special.md R335, R336) -/

/-- LDSR writes no general register and not the pc. -/
theorem setSysReg_regs_pc {n : BitVec 5} {v : Word} (h : s.setSysReg n v = some t) :
    t.regs = s.regs ∧ t.pc = s.pc := by
  unfold State.setSysReg at h
  split at h <;> cases h <;> exact ⟨rfl, rfl⟩

/-- LDSR writes one system register: the field it writes has the number `n`, the others are as before. -/
theorem sysReg_setSysReg_other {n m : BitVec 5} {v : Word} (h : s.setSysReg n v = some t) (hm : m ≠ n) :
    t.sysReg m = s.sysReg m := by
  have hne : m.toNat ≠ n.toNat := fun e => hm (BitVec.eq_of_toNat_eq e)
  unfold State.setSysReg at h
  split at h <;> cases h
  all_goals
    next hn =>
      rw [hn] at hne
      apply State.sysReg_of_field <;> rintro rfl <;> first | rfl | exact absurd rfl hne

/-- What LDSR leaves, whatever it writes. -/
theorem setSysReg_keeps {n : BitVec 5} {v : Word} (h : s.setSysReg n v = some t) :
    FrameButPSW [] [n] s t ∧ SameMemory s t := by
  obtain ⟨-, -, hhalted, hproduct, hreq, hscript⟩ := setSysReg_frame h
  exact ⟨⟨fun r _ => State.gpr_of_regs (setSysReg_regs_pc h).1 r,
    fun m _ hm => sysReg_setSysReg_other h (List.ne_of_not_mem_cons hm), hhalted, hproduct, hreq, hscript⟩,
    SameMemory.of_fields (setSysReg_memory h).1 hproduct⟩

/-- A frame that may replace the PSW need not list it. -/
theorem FrameButPSW.of_psw (h : FrameButPSW [] [5#5] s t) : FrameButPSW [] [] s t :=
  { h with special := fun n h5 _ => h.special n h5 (by simpa using h5) }

theorem FrameButPSW.advance (h : FrameButPSW [] [] s t) (len : Word) : FrameButPSW [] [] s (t.advance len) :=
  { h with }

theorem exec_ldsr {reg2 : Reg} {n : BitVec 5} (h : s.setSysReg n (s.gpr reg2) = some u) :
    exec (.ldsr reg2 n) s = .next (u.advance 4#32) := by
  simp only [exec, execLdsr, h]

/-- LDSR to another register than the PSW. -/
theorem means_ldsr {reg2 : Reg} {n : BitVec 5} {w : Word} (h5 : n ≠ 5#5) (h : s.setSysReg n (s.gpr reg2) = some u)
    (hw : u.sysReg n = some w) :
    Means (.ldsr reg2 n) [n ++ 0b111111#6 ++ reg2, 0x0020#16] s (fun t =>
      t.sysReg n = some w ∧ Advanced 4#32 s t ∧ Frame [] [] [n] s t ∧ SameMemory s t) := by
  obtain ⟨hkept, hmem⟩ := setSysReg_keeps h
  have hpsw := setSysReg_psw h h5
  have hframe : Frame [] [] [n] s u :=
    { hkept with flags := fun f _ => congrArg (flagOf · f) hpsw, reserved := fun k _ => congrArg (·.getLsbD k) hpsw }
  exact ⟨rfl, _, exec_ldsr h, hw, advanced_advance (setSysReg_regs_pc h).2 _, hframe.advance _, hmem⟩

/-- Settles O42: each register has its own writable bits; the PSW is the one that flags are read from. -/
theorem ldsrWritesWritableBits : Obligations.LdsrWritesWritableBits := by
  intro s reg2
  refine ⟨fun n hn => ?savedPC, fun n hn => ?savedPSW, ?ctbp, ?psw⟩
  case savedPC | savedPSW =>
    simp only [List.mem_cons, List.not_mem_nil, or_false] at hn
    rcases hn with rfl | rfl | rfl | rfl <;> exact means_ldsr (by decide) rfl rfl
  case ctbp =>
    obtain ⟨hencode, t, ht, hctbp, hrest⟩ := means_ldsr (s := s) (reg2 := reg2) (n := 20#5) (by decide) rfl rfl
    exact ⟨hencode, t, ht, Option.some.inj hctbp, hrest⟩
  case psw =>
    obtain ⟨hkept, hmem⟩ := setSysReg_keeps (s := s) (n := 5#5) (v := s.gpr reg2) rfl
    exact ⟨rfl, _, exec_ldsr rfl, rfl, rfl, hkept.of_psw.advance _, hmem⟩

/-- Settles O43. -/
theorem stsrReadsEveryRegister : Obligations.StsrReadsEveryRegister := by
  intro s reg2 p hp
  have hread : s.sysReg p.1 = some p.2 := by
    simp only [List.mem_cons, List.not_mem_nil, or_false] at hp
    rcases hp with rfl | rfl | rfl | rfl | rfl | rfl | rfl | rfl | rfl | rfl | rfl | rfl <;> rfl
  have hexec : exec (.stsr p.1 reg2) s = .next ((s.setReg reg2 p.2).advance 4#32) := by
    simp only [exec, execStsr, hread]
  exact ⟨rfl, _, hexec, writesOnly_setReg s reg2 p.2 4#32⟩

end Sys2Proof.Machine
end

section
/-! The stack frame of PREPARE and DISPOSE (spec/47_special.md R340 to R346), O45 to O47. That DISPOSE undoes PREPARE is
read off from what each of them does: the word that DISPOSE loads into a register is the one PREPARE stored of it. -/

namespace Sys2Proof.Machine

variable {s t : State} {list12 : BitVec 12} {imm5 : BitVec 5}

/-! ### The registers of a list (spec/30_encoding.md R142) -/

theorem ne_zero_of_mem_listRegs {r : Reg} (h : r ∈ listRegs list12) : r ≠ 0#5 := by
  rintro rfl
  exact absurd (mem_listRegs h) (by decide)

theorem ne_sp_of_mem_listRegs {r : Reg} (h : r ∈ listRegs list12) : r ≠ 3#5 := by
  rintro rfl
  exact absurd (mem_listRegs h) (by decide)

/-- Bit 10 of the list stands for ep. -/
theorem ep_mem_listRegs (h : list12.getLsbD 10 = true) : 30#5 ∈ listRegs list12 :=
  List.mem_map.mpr ⟨10, List.mem_filter.mpr ⟨by decide, h⟩, rfl⟩

/-! ### sp (spec/47_special.md R340, R346) -/

theorem preparedSP_eq (s : State) (list12 : BitVec 12) (imm5 : BitVec 5) :
    s.preparedSP list12 imm5 = preparedStack list12 imm5 s := by
  rw [State.preparedSP, preparedStack, listSize, frameSize_eq, sub_sub, ← BitVec.ofNat_add]
  rfl

theorem disposedSP_eq (s : State) (imm5 : BitVec 5) (list12 : BitVec 12) :
    s.gpr regSP + frameSize imm5 + listSize list12 = disposedStack imm5 list12 s :=
  disposed_word (s.gpr regSP) imm5 (listRegs list12).length

/-- DISPOSE moves sp up by what PREPARE moved it down. -/
theorem disposedStack_of_prepared (h : t.gpr 3#5 = preparedStack list12 imm5 s) :
    disposedStack imm5 list12 t = s.gpr 3#5 := by
  rw [disposedStack, h, preparedStack, Nat.add_comm, BitVec.sub_add_cancel]

/-- The `m`-th word down that PREPARE stores is the `m`-th from the end of those that DISPOSE loads. -/
theorem disposed_word_of_prepared (h : t.gpr 3#5 = preparedStack list12 imm5 s) {m : Nat}
    (hm : m < (listRegs list12).length) :
    t.gpr 3#5 + BitVec.ofNat 32 (4 * imm5.toNat + 4 * ((listRegs list12).length - 1 - m)) =
      s.gpr 3#5 - BitVec.ofNat 32 (4 * (m + 1)) := by
  rw [h, preparedStack]
  apply BitVec.eq_of_toNat_eq
  have hsp := (s.gpr 3#5).isLt
  simp only [BitVec.toNat_add, BitVec.toNat_sub, BitVec.toNat_ofNat]
  omega

/-! ### PREPARE (spec/47_special.md R340 to R345) -/

theorem frame_pushList (l : List Reg) (a : Word) : Frame [] [] [] s (s.pushList l a) := by
  rw [State.pushList_eq]
  exact { Frame.refl s with }

/-- What every form of PREPARE does to sp and to memory. -/
theorem prepareFrame_builds (hwf : s.mem.wf = true) :
    (s.prepareFrame list12 imm5).gpr 3#5 = preparedStack list12 imm5 s ∧
      Pushed (listRegs list12) s (s.prepareFrame list12 imm5) ∧ Frame [3#5] [] [] s (s.prepareFrame list12 imm5) := by
  refine ⟨?_, pushed_pushList hwf ((length_listRegs list12).trans (by decide)),
    (frame_pushList _ _).trans (frame_setReg _ _)⟩
  rw [← preparedSP_eq]
  exact State.gpr_setReg_self _ regSP _

/-- What a form of PREPARE does that sets ep. -/
def PreparesEP (list12 : BitVec 12) (imm5 : BitVec 5) (ep len : Word) (s t : State) : Prop :=
  t.gpr 3#5 = preparedStack list12 imm5 s ∧ t.gpr 30#5 = ep ∧ Pushed (listRegs list12) s t ∧ Advanced len s t ∧
    Frame [3#5, 30#5] [] [] s t

theorem preparesEP_setReg (hwf : s.mem.wf = true) (ep len : Word) :
    PreparesEP list12 imm5 ep len s (((s.prepareFrame list12 imm5).setReg regEP ep).advance len) := by
  obtain ⟨hsp, hpushed, hframe⟩ := prepareFrame_builds (imm5 := imm5) (list12 := list12) hwf
  exact ⟨(State.gpr_setReg_other _ (by decide) ep).trans hsp, State.gpr_setReg_self _ regEP ep, hpushed,
    advanced_advance (State.prepareFrame_pc s list12 imm5) len, (hframe.trans (frame_setReg regEP ep)).advance len⟩

/-- The high halfword that PREPARE sets ep to (R344). -/
theorem append_zero_eq_ofNat (imm16 : BitVec 16) : imm16 ++ 0#16 = BitVec.ofNat 32 (65536 * imm16.toNat) := by
  simpa using add_append_zero 0#32 imm16

/-- Settles O45: all forms build one frame, and four of them then set ep. -/
theorem prepareBuildsTheFrame : Obligations.PrepareBuildsTheFrame := by
  intro s list12 imm5 imm16 imm32 hwf h sp setsEP
  have hlist := fmtXIIIhigh_eq_listHalf list12
  obtain ⟨hsp, hpushed, hframe⟩ := prepareFrame_builds (imm5 := imm5) (list12 := list12) hwf
  have hplain := advanced_advance (State.prepareFrame_pc s list12 imm5) 4#32
  have hep := preparesEP_setReg (imm5 := imm5) (list12 := list12) hwf
  exact ⟨⟨by rw [encode, hlist]; rfl, _, rfl, hsp, hpushed, hplain, hframe.advance _⟩,
    ⟨by rw [encode, hlist]; rfl, _, rfl, preparedSP_eq s list12 imm5 ▸ hep _ _⟩,
    ⟨by rw [encode, hlist]; rfl, _, rfl, hep _ _⟩,
    ⟨by rw [encode, hlist]; rfl, _, rfl, append_zero_eq_ofNat imm16 ▸ hep _ _⟩,
    ⟨by rw [encode, hlist]; rfl, _, rfl, hep _ _⟩⟩

/-! ### DISPOSE (spec/47_special.md R341, R346) -/

theorem frame_popList (l : List Reg) (a : Word) : Frame l [] [] s (s.popList l a) := by
  have hregs := s.gpr_popList_other l a
  rw [State.popList_eq] at hregs ⊢
  exact { Frame.refl s with regs := hregs }

/-- What both forms of DISPOSE do but for the pc. -/
def Disposes (imm5 : BitVec 5) (list12 : BitVec 12) (s t : State) : Prop :=
  Popped imm5 (listRegs list12).reverse s t ∧ t.gpr 3#5 = disposedStack imm5 list12 s ∧
    Frame (3#5 :: listRegs list12) [] [] s t ∧ SameMemory s t

theorem Disposes.advance (h : Disposes imm5 list12 s t) (len : Word) : Disposes imm5 list12 s (t.advance len) := by
  obtain ⟨hpopped, hsp, hframe, hmem⟩ := h
  exact ⟨hpopped, hsp, hframe.advance len, hmem⟩

theorem Disposes.jump (h : Disposes imm5 list12 s t) (target : Word) : Disposes imm5 list12 s (t.jump target) := by
  obtain ⟨hpopped, hsp, hframe, hmem⟩ := h
  exact ⟨hpopped, hsp, hframe.jump target, hmem⟩

theorem disposeFrame_removes (s : State) (imm5 : BitVec 5) (list12 : BitVec 12) :
    Disposes imm5 list12 s (s.disposeFrame imm5 list12) := by
  refine ⟨fun j hj => ?_, ?_, ?_, SameMemory.of_fields (s.disposeFrame_mem _ _) (s.disposeFrame_product _ _)⟩
  · have hmem : (listRegs list12).reverse[j] ∈ listRegs list12 := List.mem_reverse.mp (List.getElem_mem hj)
    obtain ⟨bytes, hread, hreg⟩ := State.gpr_popList_self s (listRegs list12).reverse
      (List.nodup_reverse.mpr (nodup_listRegs list12)) (fun h => ne_zero_of_mem_listRegs (List.mem_reverse.mp h) rfl)
      (s.gpr regSP + frameSize imm5) j hj
    rw [disposed_word] at hread
    exact ⟨bytes, hread, (State.gpr_setReg_other _ (ne_sp_of_mem_listRegs hmem) _).trans hreg⟩
  · rw [← disposedSP_eq]
    exact State.gpr_setReg_self _ regSP _
  · exact ((frame_popList _ _).trans (frame_setReg _ _)).mono fun r hr => by simpa [or_comm, regSP] using hr

/-- Settles O46: both forms remove one frame; the jump is by the register after the loads. -/
theorem disposeRemovesTheFrame : Obligations.DisposeRemovesTheFrame := by
  intro s imm5 list12 reg1 h popped
  have hlist := fmtXIIIhigh_eq_listHalf list12
  have hremoved := disposeFrame_removes s imm5 list12
  have hpc := advanced_advance (State.disposeFrame_pc s imm5 list12) 4#32
  exact ⟨⟨by rw [encode, hlist]; rfl, _, rfl, hremoved.advance _, hpc⟩,
    ⟨by rw [encode, hlist]; rfl, _, rfl, hremoved.jump _, rfl⟩⟩

/-! ### DISPOSE after PREPARE -/

/-- A word is its bytes put together (spec/20_memory.md R81). -/
theorem wordOf_bytes {bytes : Nat → Byte} {v : Word} (h : ∀ k < 4, bytes k = v.extractLsb' (8 * k) 8) :
    wordOf bytes = v := by
  rw [wordOf, h 0 (by decide), h 1 (by decide), h 2 (by decide), h 3 (by decide),
    BitVec.extractLsb'_append_extractLsb'_eq_extractLsb' (by decide),
    BitVec.extractLsb'_append_extractLsb'_eq_extractLsb' (by decide),
    BitVec.extractLsb'_append_extractLsb'_eq_extractLsb' (by decide)]
  exact BitVec.extractLsb'_eq_self

/-- What every form of PREPARE leaves but for ep and the pc. -/
structure Prepared (list12 : BitVec 12) (imm5 : BitVec 5) (s t : State) : Prop where
  sp : t.gpr 3#5 = preparedStack list12 imm5 s
  pushed : Pushed (listRegs list12) s t
  frame : Frame [3#5, 30#5] [] [] s t

theorem PreparesEP.prepared {ep len : Word} (h : PreparesEP list12 imm5 ep len s t) : Prepared list12 imm5 s t := by
  obtain ⟨hsp, -, hpushed, -, hframe⟩ := h
  exact ⟨hsp, hpushed, hframe⟩

/-- Any form of PREPARE, by what it leaves; the plain one keeps ep too. -/
theorem prepared_of_exec {i : Instr} {imm16 : BitVec 16} {imm32 : BitVec 32} (hwf : s.mem.wf = true)
    (hi : i ∈ [Instr.prepare list12 imm5, .prepareSp list12 imm5, .prepareImm16 list12 imm5 imm16,
      .prepareImm16Hi list12 imm5 imm16, .prepareImm32 list12 imm5 imm32]) (ht : exec i s = .next t) :
    Prepared list12 imm5 s t ∧ (i = .prepare list12 imm5 → t.gpr 30#5 = s.gpr 30#5) := by
  simp only [List.mem_cons, List.not_mem_nil, or_false] at hi
  rcases hi with rfl | rfl | rfl | rfl | rfl
  · obtain ⟨hsp, hpushed, hframe⟩ := prepareFrame_builds (imm5 := imm5) (list12 := list12) hwf
    cases ht
    exact ⟨⟨hsp, hpushed, (hframe.advance _).mono (by simp)⟩, fun _ => hframe.regs 30#5 (by decide)⟩
  all_goals exact ⟨(of_next ht rfl (preparesEP_setReg hwf _ _)).prepared, fun e => by cases e⟩

/-- Either form of DISPOSE, by what it leaves. -/
theorem disposes_of_exec {j : Instr} {reg1 : Reg} (hj : j ∈ [Instr.dispose imm5 list12, .disposeJump imm5 list12 reg1])
    (ht : exec j s = .next t) : Disposes imm5 list12 s t := by
  have hremoved := disposeFrame_removes s imm5 list12
  simp only [List.mem_cons, List.not_mem_nil, or_false] at hj
  rcases hj with rfl | rfl
  · exact of_next ht rfl (hremoved.advance _)
  · exact of_next ht rfl (hremoved.jump _)

/-- A register of the list is loaded with the word that was stored of it. -/
theorem gpr_of_prepared_popped {u : State} (hp : Prepared list12 imm5 s t)
    (hram : ∀ k < 4 * (listRegs list12).length, s.product.kindAt (s.product.cell
      (stackAddr (s.gpr 3#5 - BitVec.ofNat 32 (4 * (listRegs list12).length)) + BitVec.ofNat 32 k)) = .ram)
    (hpopped : Popped imm5 (listRegs list12).reverse t u) {r : Reg} (hr : r ∈ listRegs list12) : u.gpr r = s.gpr r := by
  obtain ⟨hsp, ⟨hstored, -⟩, hframe⟩ := hp
  obtain ⟨m, hm, rfl⟩ := List.getElem_of_mem hr
  obtain ⟨bytes, hread, hload⟩ := hpopped ((listRegs list12).length - 1 - m) (by rw [List.length_reverse]; omega)
  rw [← List.getElem_eq_getElem_reverse hm] at hload
  rw [hload]
  refine wordOf_bytes fun k hk => ?_
  have hcell := hram (4 * ((listRegs list12).length - 1 - m) + k) (by omega)
  rw [← stackAddr_frame _ hm] at hcell
  have hheld := hread k hk
  rw [disposed_word_of_prepared hsp hm, hframe.product, hcell] at hheld
  exact (hheld rfl).trans ((hstored m hm k hk).trans (if_pos hcell))

/-- Settles O47: sp is moved down and up by one size, a listed register is stored and loaded again, and no other
register is written but ep. -/
theorem disposeUndoesPrepare : Obligations.DisposeUndoesPrepare := by
  intro s t u imm5 list12 imm16 imm32 reg1 hwf hram i hi j hj ht hu r hep
  obtain ⟨hp, hkept⟩ := prepared_of_exec hwf hi ht
  obtain ⟨hpopped, hsp, hframe, -⟩ := disposes_of_exec hj hu
  by_cases hlisted : r ∈ listRegs list12
  · exact gpr_of_prepared_popped hp hram hpopped hlisted
  by_cases hr3 : r = 3#5
  · rw [hr3, hsp, disposedStack_of_prepared hp.sp]
  rw [hframe.regs r (by simp [hr3, hlisted])]
  by_cases hr30 : r = 30#5
  · subst hr30
    exact hkept ((hep rfl).resolve_right fun h => hlisted (ep_mem_listRegs h))
  · exact hp.frame.regs r (by simp [hr3, hr30])

end Sys2Proof.Machine
end

section
/-! Traps (spec/60_exceptions.md R420, R435 to R437; spec/47_special.md R347; spec/48_debug.md R362), O48 and O49, and
the RETI that is refused (R427), O40. What taking an exception leaves unchanged is said once, by its entry. -/

namespace Sys2Proof.Machine

variable {s : State}

/-! ### What an entry writes (spec/60_exceptions.md R401, R442) -/

/-- The numbers of the system registers that taking an exception writes, beside the PSW. -/
def Entry.specials (e : Entry) : List (BitVec 5) :=
  (match e.pair with
    | .ei => [0#5, 1#5]
    | .fe => [2#5, 3#5]
    | .db => [18#5, 19#5, 21#5]) ++
  match e.cause with
    | .none => []
    | .eicc _ | .fecc _ => [4#5]

/-- The flags that taking an exception writes. -/
def Entry.flags (e : Entry) : List Flag := if e.setsNP then [.np, .ep, .id] else [.ep, .id]

theorem flagOf_takeException_other {e : Entry} {f : Flag} (hf : f ∉ e.flags) :
    flagOf (s.takeException e).psw f = flagOf s.psw f := by
  rw [State.takeException_psw, flagOf_enterPSW]
  rw [Entry.flags] at hf
  cases f <;> cases hnp : e.setsNP <;> simp_all

theorem sysReg_takeException_other {e : Entry} {n : BitVec 5} (h5 : n ≠ 5#5) (hn : n ∉ e.specials) :
    (s.takeException e).sysReg n = s.sysReg n := by
  rw [Entry.specials, List.mem_append, not_or] at hn
  obtain ⟨hpair, hcause⟩ := hn
  apply State.sysReg_of_field
  case h5 => exact fun h => absurd h h5
  case h4 =>
    rintro rfl
    rw [State.takeException_ecr]
    cases hc : e.cause with
    | none => rfl
    | eicc | fecc => simp [hc] at hcause
  case h16 | h17 | h20 => exact fun _ => rfl
  all_goals
    rintro rfl
    exact if_neg fun hp => by simp [hp] at hpair

theorem frame_takeException (e : Entry) : Frame [] e.flags e.specials s (s.takeException e) where
  regs _ _ := rfl
  flags _ := flagOf_takeException_other
  reserved _ hk := getLsbD_enterPSW e.setsNP e.ep s.psw hk
  special _ := sysReg_takeException_other
  halted := rfl
  product := rfl
  req := rfl
  script := rfl

theorem eicc_writeCause_eicc (code : Half) (ecr : Word) : (writeCause (.eicc code) ecr).extractLsb' 0 16 = code := by
  rw [writeCause, extract_append_low _ _ _ _ (by decide), BitVec.extractLsb'_eq_self]

/-! ### The traps -/

theorem entersDebugHandler_takeException (s : State) (restorePC : Word) :
    EntersDebugHandler restorePC s (s.takeException (debugEntry restorePC)) :=
  have hflag := flagOf_enterPSW true true s.psw
  have hhandler : pcMask 0x60#32 = 0x60#32 := by decide
  ⟨rfl, rfl, hflag .np, hflag .ep, hflag .id, rfl, rfl, hhandler, frame_takeException (debugEntry restorePC),
    SameMemory.of_fields rfl rfl⟩

/-- The exception code of TRAP, 0040h to 005Fh (spec/60_exceptions.md R420). -/
theorem toNat_trapCode (vector : BitVec 5) : (0x0040#16 + vector.setWidth 16).toNat = 0x40 + vector.toNat := by
  have := vector.isLt
  rw [BitVec.toNat_add, BitVec.toNat_setWidth]
  simp only [BitVec.toNat_ofNat]
  omega

theorem trapEntry_handler (s : State) (vector : BitVec 5) :
    (s.takeException (s.trapEntry vector)).pc = if vector.toNat ≤ 0x0F then 0x40#32 else 0x50#32 := by
  have handlers : pcMask 0x40#32 = 0x40#32 ∧ pcMask 0x50#32 = 0x50#32 := by decide
  rw [State.takeException_pc, State.trapEntry, apply_ite pcMask, handlers.1, handlers.2]

/-- Settles O48. -/
theorem trapEntersItsHandler : Obligations.TrapEntersItsHandler := by
  intro s vector
  have hcode : (s.takeException (s.trapEntry vector)).ecr.extractLsb' 0 16 = 0x0040#16 + vector.setWidth 16 :=
    eicc_writeCause_eicc _ s.ecr
  have hflag := flagOf_enterPSW false true s.psw
  exact ⟨rfl, _, rfl, rfl, rfl, hcode ▸ toNat_trapCode vector, fecc_writeCause_eicc _ s.ecr, hflag .ep, hflag .id,
    trapEntry_handler s vector, frame_takeException (s.trapEntry vector), SameMemory.of_fields rfl rfl⟩

/-- Settles O49: all three take the one debug entry, each with its own next pc. -/
theorem trapsEnterTheDebugHandler : Obligations.TrapsEnterTheDebugHandler := by
  intro s a b c d e
  exact ⟨⟨rfl, _, rfl, entersDebugHandler_takeException s _⟩, ⟨rfl, _, rfl, entersDebugHandler_takeException s _⟩,
    ⟨rfl, _, rfl, entersDebugHandler_takeException s _⟩⟩

/-! ### RETI in the handler of an NMI without return -/

/-- Settles O40. -/
theorem retiFromFinalNMIIsRefused : Obligations.RetiFromFinalNMIIsRefused := by
  intro s hep hnp hfecc
  have hfinal : s.fromFinalNMI = true := by simpa [State.fromFinalNMI] using hfecc
  simp [exec, execReti, hep, hnp, hfinal]

end Sys2Proof.Machine
end

section
/-! Interrupts taken and held at a boundary (spec/60_exceptions.md R410 to R415, R425, R426, R430, R438, R445), O50 to
O53: which event is pending, and what its entry makes of the state. -/

namespace Sys2Proof.Machine

variable {s : State}

/-! ### The order of events (spec/60_exceptions.md R415; D4, D5) -/

theorem pendingEvent_of_debugTrap (h : s.req.debugTrap = true) : s.pendingEvent = some .debugTrap :=
  if_pos h

section Order

variable (hdebug : s.req.debugTrap = false)
include hdebug

theorem pendingEvent_of_nmi2 (h2 : s.req.nmi2 = true) : s.pendingEvent = some .nmi2 := by
  simp [State.pendingEvent, hdebug, State.acknowledges, h2]

theorem pendingEvent_of_nmi1 (h2 : s.req.nmi2 = false) (hnp : flagOf s.psw .np = false) (h1 : s.req.nmi1 = true) :
    s.pendingEvent = some .nmi1 := by
  simp [State.pendingEvent, hdebug, State.acknowledges, h2, hnp, h1]

theorem pendingEvent_of_nmi0 (h2 : s.req.nmi2 = false) (hnp : flagOf s.psw .np = false) (h1 : s.req.nmi1 = false)
    (h0 : s.req.nmi0 = true) : s.pendingEvent = some .nmi0 := by
  simp [State.pendingEvent, hdebug, State.acknowledges, h2, hnp, h1, h0]

theorem pendingEvent_of_maskable {code : Half} (h2 : s.req.nmi2 = false) (h1 : s.req.nmi1 = false)
    (h0 : s.req.nmi0 = false) (hnp : flagOf s.psw .np = false) (hid : flagOf s.psw .id = false)
    (hint : s.req.int = some code) : s.pendingEvent = some (.maskable code) := by
  simp [State.pendingEvent, hdebug, State.acknowledges, h2, h1, h0, hnp, hid, hint]

/-- No event is pending where NP holds the NMIs but NMI2, and NP or ID the maskable request. -/
theorem pendingEvent_eq_none (h2 : s.req.nmi2 = false)
    (hnmi : flagOf s.psw .np = true ∨ (s.req.nmi1 = false ∧ s.req.nmi0 = false))
    (hint : flagOf s.psw .np = true ∨ flagOf s.psw .id = true ∨ s.req.int = none) : s.pendingEvent = none := by
  have h1 : s.acknowledges .nmi1 = false := by rcases hnmi with h | h <;> simp [State.acknowledges, h]
  have h0 : s.acknowledges .nmi0 = false := by rcases hnmi with h | h <;> simp [State.acknowledges, h]
  have hmask (code : Half) : s.acknowledges (.maskable code) = false := by
    rcases hint with h | h | h <;> simp [State.acknowledges, h]
  have hnmi2 : s.acknowledges .nmi2 = false := h2
  have htrap : s.acknowledges .debugTrap = false := hdebug
  cases hi : s.req.int <;> simp [State.pendingEvent, htrap, hnmi2, h1, h0, hmask, hi]

end Order

/-! ### What an entry makes of the state -/

theorem fecc_writeCause_fecc (code : Half) (ecr : Word) :
    (writeCause (.fecc code) ecr).extractLsb' 16 16 = code := by
  rw [writeCause, extract_append_high _ _ _ _ (by decide), BitVec.extractLsb'_eq_self]

/-- A cause code of an NMI leaves EICC (spec/10_state.md R45). -/
theorem eicc_writeCause_fecc (code : Half) (ecr : Word) :
    (writeCause (.fecc code) ecr).extractLsb' 0 16 = ecr.extractLsb' 0 16 := by
  rw [writeCause, extract_append_low _ _ _ _ (by decide), BitVec.extractLsb'_eq_self]

/-- An NMI's entry, whatever instruction it abandons: none moves the pc, the PSW or ECR. -/
theorem entersNMI_enter {e : Event} {code : Half} (he : s.met.eventEntry e = nmiEntry code s.pc) (b : Boundary) :
    EntersNMI code (pcMask (zext code)) s (s.met.enter e b) := by
  have hframe : EventFrame [.np, .id, .ep] [2#5, 3#5, 4#5] s (s.met.enter e b) := by
    refine EventFrame.of_enter s e b _ _ (fun f hf => ?_) (by simp [he, nmiEntry]) (.inr (by decide))
    cases f <;> simp at hf ⊢
  have hflag := flagOf_enterPSW true false s.psw
  obtain ⟨r, m, d, u, ha⟩ := State.abandon_eq s.met b
  rw [State.enter, ha, he] at hframe ⊢
  exact ⟨rfl, rfl, fecc_writeCause_fecc code s.ecr, eicc_writeCause_fecc code s.ecr, hflag .np, hflag .id, hflag .ep,
    rfl, rfl, hframe⟩

/-- A maskable interrupt's entry, whatever instruction it abandons. -/
theorem entersMaskable_enter (s : State) (code : Half) (b : Boundary) :
    EntersMaskable code s (s.met.enter (.maskable code) b) := by
  have hframe : EventFrame [.id, .ep] [0#5, 1#5, 4#5] s (s.met.enter (.maskable code) b) := by
    refine EventFrame.of_enter s _ b _ _ (fun f hf => ?_) (by simp [State.eventEntry, maskableEntry])
      (.inr (by decide))
    cases f <;> simp [State.eventEntry, maskableEntry] at hf ⊢
  have hflag := flagOf_enterPSW false false s.psw
  obtain ⟨r, m, d, u, ha⟩ := State.abandon_eq s.met b
  rw [State.enter, ha] at hframe ⊢
  exact ⟨rfl, rfl, eicc_writeCause_eicc code s.ecr, fecc_writeCause_eicc code s.ecr, hflag .id, hflag .ep, rfl, rfl,
    hframe⟩

/-- In HALT mode, or where no access was made, nothing is abandoned (spec/20_memory.md R94, R95). -/
theorem keptByInterrupt_enter (s : State) (e : Event) :
    KeptByInterrupt s (s.met.enter e (if s.halted then {} else s.input)) := by
  refine ⟨State.gpr_sp_abandon s.met _, fun h => ?_⟩
  have hprogress : (if s.halted then {} else s.input : Boundary).progress = 0 := by
    rcases h with h | h
    · rw [h]; rfl
    · split
      · rfl
      · exact h
  rw [State.enter, State.abandon_of_zero hprogress]
  exact ⟨fun _ => rfl, fun _ => rfl⟩

/-! ### Interrupts are taken -/

/-- A boundary that takes an NMI. -/
theorem steps_nmi {e : Event} {code : Half} (hs : s.sampling) (hp : s.met.pendingEvent = some e)
    (he : s.met.eventEntry e = nmiEntry code s.pc) :
    Steps s fun t =>
      EntersNMI code (pcMask (zext code)) s t ∧ KeptByInterrupt s t ∧ t.req = s.met.req.consume e := by
  have hd : e ≠ .debugTrap := by
    rintro rfl
    cases he
  exact ⟨_, step_of_sampling s e hs hp hd, entersNMI_enter he _, keptByInterrupt_enter s e, rfl⟩

/-- Settles O50: each NMI is the pending event where those before it are not asserted. -/
theorem nmisAreTaken : Obligations.NMIsAreTaken := by
  intro s hs r
  have ⟨_, _, hdebug, _⟩ := hs
  exact ⟨fun h2 => steps_nmi hs (pendingEvent_of_nmi2 hdebug h2) rfl,
    fun h2 hnp h1 => steps_nmi hs (pendingEvent_of_nmi1 hdebug h2 hnp h1) rfl,
    fun h2 hnp h1 h0 => steps_nmi hs (pendingEvent_of_nmi0 hdebug h2 hnp h1 h0) rfl⟩

/-- Settles O51. -/
theorem maskableInterruptsAreTaken : Obligations.MaskableInterruptsAreTaken := by
  intro s code hs h0 h1 h2 hnp hid hint
  have ⟨_, _, hdebug, _⟩ := hs
  have hp := pendingEvent_of_maskable hdebug h2 h1 h0 hnp hid hint
  exact ⟨_, step_of_sampling s _ hs hp (by simp), entersMaskable_enter s code _, keptByInterrupt_enter s _, rfl⟩

/-- Settles O53: the entry is the debug trap's, taken with nothing abandoned. -/
theorem debugFunctionTrapIsTakenFirst : Obligations.DebugFunctionTrapIsTakenFirst := by
  intro s hr hreq
  have hframe : EventFrame [.np, .ep, .id] [18#5, 19#5, 21#5] s (s.met.enter .debugTrap {}) := by
    refine EventFrame.of_enter s _ _ _ _ (fun f hf => ?_) (by simp [State.eventEntry, debugEntry]) (.inl rfl)
    cases f <;> simp at hf ⊢
  obtain ⟨hpc, hpsw, hnp, hep, hid, hdir, hecr, hhandler, hkept, hmem⟩ :=
    entersDebugHandler_takeException s.met s.pc
  exact ⟨_, step_of_debugTrap hr (pendingEvent_of_debugTrap hreq), hpc, hpsw, hnp, hep, hid, hdir, hecr, hhandler, rfl,
    hframe, fun r => hkept.regs r (by simp), rfl, hmem⟩

/-! ### Requests are held -/

theorem State.boundary_eq (s : State) : s.boundary = s.met.react s.input := rfl

/-- An executed instruction leaves the requests as the environment left them. -/
theorem req_of_executing {t : State} (hs : s.executing) (h : step s = .next t) : t.req = s.met.req := by
  rw [step_of_executing s hs] at h
  obtain ⟨i, d, u, hexec, rfl⟩ := State.runInstr_eq_next h
  obtain ⟨-, -, -, -, hreq, -⟩ := onlyTheseWriteECRAndDIR i _ u hexec
  exact hreq

/-- A boundary of HALT mode at which nothing is taken only lets the environment act. -/
theorem step_of_halted (hr : s.input.reset = false) (hh : s.halted = true) (hdebug : s.met.req.debugTrap = false)
    (h : s.met.pendingEvent = none ∨ s.input.defer = true) : step s = .next s.met := by
  have hproceed : s.met.proceed = .become s.met := if_pos hh
  have hm : s.met.halted = true := hh
  rw [step, State.boundary_eq, State.react, hr]
  cases hp : s.met.pendingEvent with
  | none => simp [hproceed]
  | some e =>
    have hdefer : s.input.defer = true := h.resolve_left (by simp [hp])
    cases e with
    | debugTrap => exact absurd hp (State.pendingEvent_ne_debugTrap hdebug)
    | _ => simp [hdefer, hm, hproceed]

/-- Settles O52: the requests after a boundary are those latched, and none that is masked is pending. -/
theorem requestsAreHeld : Obligations.RequestsAreHeld := by
  refine ⟨fun s => ?_, fun s hr hdebug => ⟨pendingEvent_eq_none hdebug, fun hh => step_of_halted hr hh hdebug⟩⟩
  have hint : s.met.req.int = s.input.intc.apply s.req.int := rfl
  exact ⟨rfl, rfl, rfl, rfl, fun h => by rw [hint, h]; rfl, fun h => by rw [hint, h]; rfl,
    fun code h => by rw [hint, h]; rfl, fun hs t => req_of_executing hs⟩

end Sys2Proof.Machine
end

section
/-! The reset input (spec/70_reset_and_hazards.md R500; log 11), O10: what an instruction that reset cuts short leaves
of the bytes it stores. A byte that is not plain RAM no instruction changes, so there "stored" and "as before" agree. -/

namespace Sys2Proof.Machine

variable {s t u v : State} {i : Instr}

/-! ### Only plain RAM holds what is stored (spec/20_memory.md R86; D14) -/

/-- Only bytes of plain RAM differ, and the memory stays in its canonical form. -/
structure ChangesOnlyRAM (s t : State) : Prop where
  product : t.product = s.product
  wf : t.mem.wf = true
  kept : ∀ a : Word, s.product.kindAt (s.product.cell a) ≠ .ram → t.byteAt a = s.byteAt a

theorem ChangesOnlyRAM.refl (h : s.mem.wf = true) : ChangesOnlyRAM s s := ⟨rfl, h, fun _ _ => rfl⟩

theorem ChangesOnlyRAM.writeByte (h : ChangesOnlyRAM s t) (a : Word) (b : Byte) :
    ChangesOnlyRAM s (t.writeByte a b) where
  product := h.product
  wf := State.wf_writeByte t h.wf a b
  kept c hc := by
    have hne : ¬ (t.product.cell c = t.product.cell a ∧ t.product.kindAt (t.product.cell a) = .ram) := by
      rw [h.product]
      exact fun ⟨hcell, hram⟩ => hc (hcell ▸ hram)
    rw [State.byteAt_writeByte t h.wf, if_neg hne, h.kept c hc]

theorem ChangesOnlyRAM.storeHalf (h : ChangesOnlyRAM s t) (a : Word) (b : Half) : ChangesOnlyRAM s (t.storeHalf a b) :=
  (h.writeByte _ _).writeByte _ _

theorem ChangesOnlyRAM.storeWord (h : ChangesOnlyRAM s t) (a b : Word) : ChangesOnlyRAM s (t.storeWord a b) :=
  (((h.writeByte _ _).writeByte _ _).writeByte _ _).writeByte _ _

theorem ChangesOnlyRAM.pushList (h : ChangesOnlyRAM s t) (l : List Reg) (a : Word) :
    ChangesOnlyRAM s (t.pushList l a) := by
  induction l generalizing t a with
  | nil => exact h
  | cons r l ih => exact ih (h.storeWord _ _) _

theorem ChangesOnlyRAM.setReg (h : ChangesOnlyRAM s t) (r : Reg) (w : Word) : ChangesOnlyRAM s (t.setReg r w) :=
  { h with }

theorem ChangesOnlyRAM.advance (h : ChangesOnlyRAM s t) (len : Word) : ChangesOnlyRAM s (t.advance len) :=
  { h with }

theorem ChangesOnlyRAM.testBit (h : ChangesOnlyRAM s t) (a : Word) (n : Nat) : ChangesOnlyRAM s (t.testBit a n) :=
  { h with }

/-- What an instruction stores goes to plain RAM alone. -/
theorem byteAt_exec_of_not_ram (hwf : s.mem.wf = true) (h : exec i s = .next t) {a : Word}
    (ha : s.product.kindAt (s.product.cell a) ≠ .ram) : t.byteAt a = s.byteAt a := by
  cases hi : i.stores with
  | false => exact onlyStoresChangeMemory i s t h hi a
  | true =>
    have start := ChangesOnlyRAM.refl hwf
    refine ChangesOnlyRAM.kept (s := s) ?_ a ha
    cases i with
    | stB | sstB => exact of_next h rfl ((start.writeByte _ _).advance _)
    | stH | sstH => exact of_next h rfl ((start.storeHalf _ _).advance _)
    | stW | sstW => exact of_next h rfl ((start.storeWord _ _).advance _)
    | set1Disp | set1Reg | not1Disp | not1Reg | clr1Disp | clr1Reg =>
      exact of_next h rfl (((start.testBit _ _).writeByte _ _).advance _)
    | prepare => exact of_next h rfl (((start.pushList _ _).setReg _ _).advance _)
    | prepareSp | prepareImm16 | prepareImm16Hi | prepareImm32 =>
      exact of_next h rfl ((((start.pushList _ _).setReg _ _).setReg _ _).advance _)
    | _ => cases hi

/-! ### The instruction that reset cuts short -/

/-- An instruction that had not begun, or has no meaning, has stored nothing (log 11). -/
theorem State.cutShort_eq_self {fates : List ByteFate}
    (h : fates = [] ∨ ∀ i u v, s.fetch = .instr i u → exec i u ≠ .next v) : s.cutShort fates = s := by
  unfold State.cutShort
  split
  · rfl
  next hne =>
    split
    next i u hf =>
      split
      next v he => exact absurd he (h.resolve_left hne i u v hf)
      · rfl
    · rfl

/-- An instruction that answers a next state leaves each byte it stores to its fate. -/
theorem State.cutShort_of_fetch (hf : s.fetch = .instr i u) (he : exec i u = .next v) (fates : List ByteFate) :
    ∃ d, s.cutShort fates = ({ s with draws := d } : State).leaveBytes v.mem fates (storeAddrs i u) := by
  by_cases hn : fates = []
  · exact ⟨s.draws, by rw [State.cutShort_eq_self (.inl hn), hn, State.leaveBytes.eq_def]⟩
  · refine ⟨v.draws, ?_⟩
    rw [State.cutShort, if_neg hn]
    simp only [hf, he]
    obtain ⟨d, rfl⟩ := State.fetch_eq hf
    rfl

/-- What a byte holds that the instruction does not store to. -/
theorem byteAt_cutShort_other (hwf : s.mem.wf = true) (hf : s.fetch = .instr i u) (he : exec i u = .next v)
    (fates : List ByteFate) {b : Word} (hb : ∀ a ∈ storeAddrs i u, s.product.cell b ≠ s.product.cell a) :
    (s.cutShort fates).byteAt b = s.byteAt b := by
  obtain ⟨d, hcut⟩ := State.cutShort_of_fetch hf he fates
  rw [hcut]
  exact State.byteAt_leaveBytes_other { s with draws := d } hwf v.mem fates _ b hb

/-- What a byte holds that the instruction stores to, by its fate. -/
theorem byteAt_cutShort_self (hwf : s.mem.wf = true) (hf : s.fetch = .instr i u) (he : exec i u = .next v)
    (fates : List ByteFate) {k : Nat} {a : Word} (ha : (storeAddrs i u)[k]? = some a) :
    (s.product.kindAt (s.product.cell a) ≠ .ram ∨ fates[k]? = none ∨ fates[k]? = some .kept →
      (s.cutShort fates).byteAt a = s.byteAt a) ∧
    (fates[k]? = some .stored → (s.cutShort fates).byteAt a = v.byteAt a) := by
  obtain ⟨d, hcut⟩ := State.cutShort_of_fetch hf he fates
  obtain ⟨e, rfl⟩ := State.fetch_eq hf
  obtain ⟨-, -, -, hproduct, -⟩ := onlyTheseWriteECRAndDIR i _ v he
  have ⟨hkept, hstored⟩ := State.byteAt_leaveBytes_self { s with draws := d } hwf v.mem fates _
    (pairwise_storeAddrs { s with draws := e } i) k a ha
  rw [hcut]
  refine ⟨hkept, fun hfate => ?_⟩
  by_cases hram : s.product.kindAt (s.product.cell a) = .ram
  · rw [hstored hfate hram, State.byteAt, hproduct]
  · exact (hkept (.inl hram)).trans (byteAt_exec_of_not_ram (s := { s with draws := e }) hwf he hram).symm

/-- Settles O10: the reset entry writes the registers, and memory is what the instruction cut short has left. -/
theorem resetInputResets : Obligations.ResetInputResets := by
  intro s hr
  have hinv := State.reset_inv
  refine ⟨_, step_of_reset s hr, rfl, rfl, rfl, rfl, State.gpr_zero _, rfl,
    ⟨hinv.eipc, hinv.fepc, hinv.ctpc, hinv.dbpc⟩, ⟨hinv.eipsw, hinv.fepsw, hinv.ctpsw, hinv.dbpsw⟩, hinv.ctbp,
    ?requests, rfl, fun h => ?notBegun, fun i u v hh hwf hf he => ?cut⟩
  case requests =>
    obtain ⟨m, d, u, hcut⟩ := State.cutShort_eq s.met s.input.cut
    rw [State.resetEntry_req, hcut]
    split <;> rfl
  case notBegun =>
    cases hh : s.halted with
    | true => exact SameMemory.of_fields rfl rfl
    | false =>
      have hcut := State.cutShort_eq_self (h.resolve_left (by simp [hh]))
      rw [if_neg (by simp), hcut]
      exact SameMemory.of_fields rfl rfl
  case cut =>
    rw [hh]
    exact ⟨fun b => byteAt_cutShort_other (s := s.met) hwf hf he s.input.cut,
      fun k a => byteAt_cutShort_self (s := s.met) hwf hf he s.input.cut⟩

end Sys2Proof.Machine
end

section
/-! The SLD conflict (spec/70_reset_and_hazards.md R515; log 13), O54: the two records the model keeps of it, `sldDest`
and `windowRegs`, say what the lists of R515 say. -/

namespace Sys2Proof.Machine

variable {s : State} {i j : Instr} {r : Reg}

/-! ### The lists of R515 -/

theorem sldDest_eq_some_iff : sldDest i = some r ↔ i.shortLoadsTo r := by
  constructor
  · intro h
    cases i with
    | sldB disp7 => cases h; exact ⟨0, 0, disp7, 0, by simp⟩
    | sldBu disp4 => cases h; exact ⟨disp4, 0, 0, 0, by simp⟩
    | sldH disp8 | sldW disp8 => cases h; exact ⟨0, 0, 0, disp8, by simp⟩
    | sldHu disp5 => cases h; exact ⟨0, disp5, 0, 0, by simp⟩
    | _ => cases h
  · rintro ⟨disp4, disp5, disp7, disp8, h⟩
    simp only [List.mem_cons, List.not_mem_nil, or_false] at h
    rcases h with rfl | rfl | rfl | rfl | rfl <;> rfl

theorem windowRegs_of_mem_hazardPairs {reg1 reg2 : Reg} (h : i ∈ hazardPairs reg1 reg2) :
    windowRegs i = [reg1, reg2] := by
  revert i
  simp [hazardPairs, windowRegs]

theorem windowRegs_of_mem_hazardImms {imm5 : BitVec 5} {reg2 : Reg} (h : i ∈ hazardImms imm5 reg2) :
    windowRegs i = [reg2] := by
  revert i
  simp [hazardImms, windowRegs]

/-- An instruction is of list ii, with two registers or one, or leaves the window empty. -/
theorem hazard_or_windowRegs_eq_nil (i : Instr) :
    (∃ reg1 reg2, i ∈ hazardPairs reg1 reg2) ∨ (∃ imm5 reg2, i ∈ hazardImms imm5 reg2) ∨ windowRegs i = [] := by
  cases i with
  | movReg reg1 reg2 | notReg reg1 reg2 | satsubr reg1 reg2 | satsub reg1 reg2 | sataddReg reg1 reg2 | orReg reg1 reg2
  | xorReg reg1 reg2 | andReg reg1 reg2 | tst reg1 reg2 | subr reg1 reg2 | sub reg1 reg2 | addReg reg1 reg2
  | cmpReg reg1 reg2 | mulhReg reg1 reg2 => exact .inl ⟨reg1, reg2, by simp [hazardPairs]⟩
  | sataddImm5 imm5 reg2 | addImm5 imm5 reg2 | cmpImm5 imm5 reg2 | shrImm5 imm5 reg2 | sarImm5 imm5 reg2
  | shlImm5 imm5 reg2 => exact .inr (.inl ⟨imm5, reg2, by simp [hazardImms]⟩)
  | _ => exact .inr (.inr rfl)

theorem mem_windowRegs_iff : r ∈ windowRegs i ↔ i.hazardNames r := by
  constructor
  · intro h
    rcases hazard_or_windowRegs_eq_nil i with ⟨reg1, reg2, hi⟩ | ⟨imm5, reg2, hi⟩ | hi
    · rw [windowRegs_of_mem_hazardPairs hi] at h
      exact ⟨reg1, reg2, 0, .inl ⟨hi, by simpa using h⟩⟩
    · rw [windowRegs_of_mem_hazardImms hi] at h
      exact ⟨0, reg2, imm5, .inr ⟨hi, by simpa using h⟩⟩
    · simp [hi] at h
  · rintro ⟨reg1, reg2, imm5, ⟨hi, hr⟩ | ⟨hi, hr⟩⟩
    · rw [windowRegs_of_mem_hazardPairs hi]
      simpa using hr
    · rw [windowRegs_of_mem_hazardImms hi]
      simpa using hr

/-! ### The two patterns at a boundary -/

theorem atSLDTo_nil (s : State) : s.atSLDTo [] = false := by
  unfold State.atSLDTo
  split
  · split <;> rfl
  · rfl

theorem atSLDTo_iff (h : s.holdsCode i) (regs : List Reg) :
    s.atSLDTo regs = true ↔ ∃ r, i.shortLoadsTo r ∧ r ∈ regs := by
  simp only [State.atSLDTo, State.fetch_of_holdsCode h, ← sldDest_eq_some_iff]
  cases sldDest i <;> simp

theorem beforeSLD_eq (h : s.holdsCode i) : s.beforeSLD = s.behind.atSLDTo (windowRegs i) := by
  simp only [State.beforeSLD, State.fetch_of_holdsCode h]
  rfl

/-- An instruction of list ii at the pc, and behind it an SLD to a register it names. -/
theorem beforeSLD_iff (hi : s.holdsCode i) (hj : s.behind.holdsCode j) :
    s.beforeSLD = true ↔ ∃ r, j.shortLoadsTo r ∧ i.hazardNames r := by
  rw [beforeSLD_eq hi, atSLDTo_iff hj]
  simp only [mem_windowRegs_iff]

/-- Another instruction than one of list ii at the pc meets no conflict with what stands behind it. -/
theorem beforeSLD_of_no_hazard (hi : s.holdsCode i) (h : ∀ r, ¬ i.hazardNames r) : s.beforeSLD = false := by
  have hnil : windowRegs i = [] := List.eq_nil_iff_forall_not_mem.mpr fun r hr => h r (mem_windowRegs_iff.mp hr)
  rw [beforeSLD_eq hi, hnil, atSLDTo_nil]

/-! ### The step -/

/-- An acknowledgeable interrupt that meets the conflict outside HALT mode refuses the step, deferred or not. -/
theorem step_of_sldConflict {e : Event} (hc : s.met.sldConflict = true) (hr : s.input.reset = false)
    (hh : s.halted = false) (hp : s.met.pendingEvent = some e) (hd : e ≠ .debugTrap) :
    step s = .refused .sldInterruptConflict := by
  have hm : s.met.halted = false := hh
  rw [step, State.boundary_eq, State.react, hr, hp]
  cases e with
  | debugTrap => exact absurd rfl hd
  | _ => simp [hc, hm]

theorem window_of_executing {t : State} (hi : s.holdsCode i) (hs : s.executing) (h : step s = .next t) :
    t.window = windowRegs i := by
  have hstep : step s = finish i (exec i s.met) := by
    rw [step_of_executing s hs, State.runInstr, State.fetch_of_holdsCode (State.holdsCode_met hi)]
  rw [hstep] at h
  cases he : exec i s.met with
  | next u =>
    rw [he] at h
    cases h
    rfl
  | fault | refused => rw [he] at h; cases h

/-- Settles O54: a conflict is one of the two patterns, and the window an executed instruction leaves is the registers
it names as one of list ii. -/
theorem sldConflictIsRefused : Obligations.SLDConflictIsRefused := by
  refine ⟨fun s i r e hi hload hr => ?after, fun s i j r e hi hj hload hname => ?before,
    fun s i hi hafter hbefore => ?none, fun s t i hi hs h => ?window⟩
  case after =>
    have hat : s.met.atSLDTo s.met.window = true := (atSLDTo_iff (State.holdsCode_met hi) _).mpr ⟨r, hload, hr⟩
    exact step_of_sldConflict (by simp [State.sldConflict, hat])
  case before =>
    have hat : s.met.beforeSLD = true :=
      (beforeSLD_iff (s := s.met) (State.holdsCode_met hi) hj).mpr ⟨r, hload, hname⟩
    exact step_of_sldConflict (by simp [State.sldConflict, hat])
  case none =>
    have hat : s.met.atSLDTo s.met.window = false := by
      rw [Bool.eq_false_iff, Ne, atSLDTo_iff (State.holdsCode_met hi)]
      exact fun ⟨r, hload, hr⟩ => hafter r hload hr
    have hahead : s.met.beforeSLD = false := by
      rcases hbefore with h | ⟨j, hj, h⟩
      · exact beforeSLD_of_no_hazard (State.holdsCode_met hi) h
      · rw [Bool.eq_false_iff, Ne, beforeSLD_iff (s := s.met) (State.holdsCode_met hi) hj]
        exact fun ⟨r, hload, hname⟩ => h r hload hname
    rw [State.sldConflict, hahead, hat, Bool.or_false]
  case window =>
    rw [window_of_executing hi hs h]
    refine ⟨fun _ _ => windowRegs_of_mem_hazardPairs, fun _ _ => windowRegs_of_mem_hazardImms, fun hn => ?_⟩
    rcases hazard_or_windowRegs_eq_nil i with ⟨reg1, reg2, hi⟩ | ⟨imm5, reg2, hi⟩ | hnil
    · exact absurd hi (hn reg1 reg2 0).1
    · exact absurd hi (hn 0 reg2 imm5).2
    · exact hnil

end Sys2Proof.Machine
end
